-- ==== Sys2Proof/Word.lean ====
section
/-! DEFINITION. The two word types of CRC8V: the data byte and the 10-bit command word (R10, R61). -/

namespace Sys2Proof

/-- An 8-bit value: the accumulator, a data byte, a table index or a table entry (R90). -/
abbrev Byte := BitVec 8

/-- The 10-bit command word `cmd[9:0]` of format C10 (R61). -/
abbrev Word := BitVec 10

end Sys2Proof
end

