-- ==== Sys2Proof/Config.lean ====
section
/-! DEFINITION. The fixed parameters of R7 that a definition reads, and the free values of what the spec leaves unspecified.
`XOROUT` of R7 is 0x00, "none": nothing is XORed into a result, so no definition reads it. -/

namespace Sys2Proof.Config

/-- `W`: the width of the CRC and of a data byte, so the number of rounds of `step8` (R7, R42). -/
def crcWidth : Nat := 8

/-- `NT`: the number of entries of the lookup table (R7). -/
def tableEntries : Nat := 256

/-- `CW`: the width of a command word (R7). -/
def commandWidth : Nat := 10

/-- `P_norm`: x^8+x^5+x^4+1 without x^8, most significant bit first (R7). -/
def polyNorm : Byte := 0x31

/-- `P_refl`: `P_norm` bit-reversed, the constant of the LSB-first step (R7, R42). -/
def polyRefl : Byte := 0x8C

/-- `SEED`: the seed of the source's `block`, and what reset leaves in `acc` (R7, R29). -/
def seed : Byte := 0x00

/-- `ROM_PRE`: the prefix bytes of a ROM code frame; `ROM_LEN` is this plus the trailer (R7, R46, conflict C1). -/
def romPrefix : Nat := 7

/-- `SP_PRE`: the prefix bytes of a scratchpad frame; `SP_LEN` is this plus the trailer (R7, R47). -/
def scratchpadPrefix : Nat := 8

/-- Free value: what `acc` holds after the n-th power-up, before a reset (R30, R133: unspecified). Log entry 2.
That n is all it depends on, for every block alike, is the model's choice (DESIGN CHOICE, log entries 2 and 11), as it is for
the two below. -/
opaque powerUpAcc : Nat → Byte

/-- Free value: what `vld` holds after the n-th power-up, before a reset (R30, R133: unspecified). Log entry 2. -/
opaque powerUpVld : Nat → Bool

/-- Free value: what `ok` holds after the n-th power-up, before a reset (R30, R133: unspecified). Log entry 2. -/
opaque powerUpOk : Nat → Bool

end Sys2Proof.Config
end

