-- ==== Sys2Proof/Syntax.lean ====
section
/-! DEFINITION. The four commands of the opcode table (R62) and the pseudo-commands written in them (R69 to R73). -/

namespace Sys2Proof

/-- The commands, one constructor per row of the opcode table (R62). -/
inductive Instr where
  /-- NOP: no operand, its `d` is ignored, so its 256 words are one command (R64, R81). -/
  | nop
  /-- INIT `seed` (R82). -/
  | init (seed : Byte)
  /-- UPDATE `byte` (R83). -/
  | update (byte : Byte)
  /-- CHECK `expected` (R84). -/
  | check (expected : Byte)
  deriving DecidableEq, Repr

/-- The pseudo-commands: each is written for a fixed sequence of commands (R69 to R73). -/
inductive Pseudo where
  /-- CLEAR (R69). -/
  | clear
  /-- BLOCK `seed; bytes` (R70). -/
  | block (seed : Byte) (bytes : List Byte)
  /-- VROM `r0, ..., r7`: the prefix `r0, ..., r6` and the trailer `r7` (R71). -/
  | vrom (pre : List Byte) (trailer : Byte)
  /-- VSP `s0, ..., s8`: the prefix `s0, ..., s7` and the trailer `s8` (R72). -/
  | vsp (pre : List Byte) (trailer : Byte)
  /-- VRT `bytes`: a whole frame, trailer included (R73). -/
  | vrt (bytes : List Byte)
  deriving DecidableEq, Repr

end Sys2Proof
end

