-- ==== Sys2Proof/WellFormed.lean ====
section
/-! DEFINITION. Which terms of Syntax are commands of the machine.
A command's operand is a byte by its type, so every term of `Instr` is well formed (R63, R65).
A pseudo-command that validates a frame takes exactly that frame's bytes (R46, R47, R71, R72). -/

namespace Sys2Proof

/-- Every command is well formed: no operand value is reserved (R65). -/
def Instr.wf : Instr → Bool
  | .nop => true
  | .init _ => true
  | .update _ => true
  | .check _ => true

/-- VROM takes a 7-byte prefix and VSP an 8-byte one; the others take any bytes (R70 to R73). -/
def Pseudo.wf : Pseudo → Bool
  | .clear => true
  | .block _ _ => true
  | .vrom pre _ => pre.length == Config.romPrefix
  | .vsp pre _ => pre.length == Config.scratchpadPrefix
  | .vrt _ => true

end Sys2Proof
end

