-- ==== Sys2Proof/Decode.lean ====
section
/-! DEFINITION. Decoding a command word, total on words (R61 to R65), the opcode table's rows, and the encoder. -/

namespace Sys2Proof

/-- Why a number is no command word. Who raises it: `decodeNumber`, on a number that needs more than 10 bits (safe). -/
inductive DecodeError where
  | notACommandWord
  deriving DecidableEq, Repr

/-- The operation select `op` = `cmd[9:8]` (R61). -/
def opField (w : Word) : BitVec 2 := w.extractLsb' 8 2

/-- The data byte `d` = `cmd[7:0]`, used as it stands (R61, R63). -/
def dField (w : Word) : Byte := w.extractLsb' 0 8

/-- The command a word stands for: every word is one of the four (R62, R65). -/
def decode (w : Word) : Instr :=
  match opField w with
  | 0b00#2 => .nop
  | 0b01#2 => .init (dField w)
  | 0b10#2 => .update (dField w)
  | 0b11#2 => .check (dField w)

/-- A number read as a command word, refused by name where it needs more than 10 bits (R61). -/
def decodeNumber (n : Nat) : Except DecodeError Instr :=
  if n < 2 ^ Config.commandWidth then .ok (decode (BitVec.ofNat 10 n)) else .error .notACommandWord

/-- The host's view of the decoder: the command in the low `nbits` bits of `w`. -/
def decodeTableWord (nbits w : Nat) : Option Instr :=
  match decodeNumber (w % 2 ^ nbits) with
  | .ok i => some i
  | .error _ => none

/-- The command's mnemonic in the opcode table (R62). -/
def Instr.mnemonic : Instr → String
  | .nop => "NOP"
  | .init _ => "INIT"
  | .update _ => "UPDATE"
  | .check _ => "CHECK"

/-- A row of the opcode table: its words are those that give `pattern` under `mask` (R62). -/
structure OpcodeRow where
  mnemonic : String
  mask : Word
  pattern : Word
  deriving DecidableEq, Repr

/-- The opcode table: the mask 0x300 and the four match values (R62). -/
def opcodeTable : List OpcodeRow :=
  [⟨"NOP", 0x300, 0x000⟩, ⟨"INIT", 0x300, 0x100⟩, ⟨"UPDATE", 0x300, 0x200⟩, ⟨"CHECK", 0x300, 0x300⟩]

/-- Does the word belong to the row (R62)? -/
def OpcodeRow.covers (r : OpcodeRow) (w : Word) : Bool := w &&& r.mask == r.pattern

/-- The `op` field a command is encoded with (R62). -/
def Instr.op : Instr → BitVec 2
  | .nop => 0b00
  | .init _ => 0b01
  | .update _ => 0b10
  | .check _ => 0b11

/-- The `d` field a command is encoded with; NOP's is 0, the canonical NOP's (R63, R64). -/
def Instr.d : Instr → Byte
  | .nop => 0x00
  | .init seed => seed
  | .update byte => byte
  | .check expected => expected

/-- The word `{op, d}` of a command (R61). -/
def encode (i : Instr) : Word := i.op ++ i.d

end Sys2Proof
end

