-- ==== Sys2Proof/Machine/State.lean ====
section
/-! DEFINITION. The state of one CRC8V block together with what its requester will drive on its ports. -/

namespace Sys2Proof.Machine

/-- What is on the input ports at one rising edge of `clk` (R31).
`none` stands for a port that holds an X or Z level, on any of its bits. -/
structure Inputs where
  /-- Which requester drives the ports at this edge (R8, R131). -/
  driver : Nat
  rst : Option Bool
  cmdValid : Option Bool
  cmd : Option Word
  deriving DecidableEq, Repr

/-- The input ports at an edge where every one of them holds a defined level (R31). -/
structure Sample where
  rst : Bool
  cmdValid : Bool
  cmd : Word
  deriving DecidableEq, Repr

/-- What happens to the block from outside: a rising edge of `clk`, or its power removed and given back (R133, R141). -/
inductive Event where
  | edge (i : Inputs)
  | powerCycle
  deriving DecidableEq, Repr

/-- The whole state. `acc`, `vld` and `ok` are the block's whole register state (R24);
`pc` is the spec's bookkeeping (R25); the other four are the model's own, for what R8, R30, R31 and R131 say. -/
structure State where
  /-- The running CRC value (R21). -/
  acc : Byte
  /-- A verdict is held (R22). -/
  vld : Bool
  /-- The verdict of the most recent CHECK (R23). -/
  ok : Bool
  /-- The command index: how many commands have been accepted (R25). -/
  pc : Nat
  /-- Has the block been reset since power-up (R30)? -/
  launched : Bool
  /-- The one requester this block serves (R8, R131). -/
  requester : Nat
  /-- What happens next, the earliest first: the requester's input, not a part of the block (R8, R31). -/
  pending : List Event
  /-- How many power-ups the free values of Config have been read for (log entry 2). -/
  powerUps : Nat
  deriving DecidableEq, Repr

/-- The output ports (R32). -/
structure Outputs where
  crcQ : Byte
  vld : Bool
  ok : Bool
  deriving DecidableEq, Repr

/-- What a requester reads in the verdict flags (R22, R23, R124). -/
inductive Reading where
  /-- `vld` = 0: no verdict is held. -/
  | noVerdict
  /-- `vld` = 1, `ok` = 1: the last CHECK matched. -/
  | pass
  /-- `vld` = 1, `ok` = 0: the source's CrcError. -/
  | crcError
  deriving DecidableEq, Repr

/-- No fault exists: the block raises no exception, and its cycle function has no fault outcome (R86, R121). -/
inductive Fault where
  deriving DecidableEq, Repr

/-- Why the model stops. The last three are the runs the spec says a model refuses. -/
inductive Refusal where
  /-- Raised by an arm of `exec` for an instruction without a meaning: no arm does (safe). -/
  | notModelled (mnemonic : String)
  /-- Raised by an edge without reset on a block not yet reset since power-up (R30, R126; safe). -/
  | unreset
  /-- Raised by an edge at which an input port holds an undefined level (R31, R126). A stop, so safe; unsafe only as R9 says:
  no run covers what hardware does with such a level. -/
  | undefinedInput
  /-- Raised by an edge that another requester than the block's own drives (R131; safe). -/
  | secondRequester
  deriving DecidableEq, Repr

/-- Right after a reset step (R29), at the start of the requester's list (R25), with nothing on its way. -/
def State.reset : State where
  acc := 0x00
  vld := false
  ok := false
  pc := 0
  launched := true
  requester := 0
  pending := []
  powerUps := 0

end Sys2Proof.Machine
end

