-- ==== Sys2Proof/Machine/Operands.lean ====
section
/-! DEFINITION. The operands of a step: what is sampled on the ports (R31), and the commands' one operand form, the byte `d` (R63).
No command names a register: its register operands are fixed by its rule (R24). -/

namespace Sys2Proof.Machine

/-- The levels sampled at an edge, where all are defined; none where a port is undefined (R31). -/
def Inputs.sample (i : Inputs) : Option Sample :=
  match i.rst, i.cmdValid, i.cmd with
  | some rst, some cmdValid, some cmd => some ⟨rst, cmdValid, cmd⟩
  | _, _, _ => none

/-- The index UPDATE reads the table at: the accumulator XOR the data byte (R43). -/
def tableIndex (byte : Byte) (s : State) : Byte := s.acc ^^^ byte

end Sys2Proof.Machine
end

