-- ==== Sys2Proof/Machine/Flags.lean ====
section
/-! DEFINITION. The two verdict flags: how a command writes them (R22, R23, R26) and how a requester reads them (R124). -/

namespace Sys2Proof.Machine

/-- CHECK's comparison `(acc == d)`, one bit (R84). -/
def matchesAcc (expected : Byte) (s : State) : Bool := s.acc == expected

/-- No verdict is held: `vld` and `ok` are 0 (R82, R83, R29). -/
def State.dropVerdict (s : State) : State := { s with vld := false, ok := false }

/-- A verdict is held: `vld` is 1 and `ok` is the comparison's result (R84). -/
def State.recordVerdict (matched : Bool) (s : State) : State := { s with vld := true, ok := matched }

/-- What the requester reads in the flags (R22, R23, R124). -/
def State.reading (s : State) : Reading :=
  if s.vld then (if s.ok then .pass else .crcError) else .noVerdict

end Sys2Proof.Machine
end

