-- ==== Sys2Proof/Machine/Ops.lean ====
section
/-! DEFINITION. The named operations on the state. The block has no memory (R49), so none reads or writes one,
and no exception, trap entry or return (R121, R127), so there is none to take: the nearest thing is reset. -/

namespace Sys2Proof.Machine

/-- Write the accumulator (R21). -/
def State.setAcc (v : Byte) (s : State) : State := { s with acc := v }

/-- `pc <- pc + 1`, at a step that accepts a command (R11, R25). -/
def State.advance (s : State) : State := { s with pc := s.pc + 1 }

/-- Reset: the registers of R29, the command index unchanged, and the block is launched (R29, R30, R142). -/
def State.resetBlock (s : State) : State :=
  { (s.setAcc Config.seed).dropVerdict with launched := true }

/-- Power removed and given back: the registers hold unspecified values, and the block must be reset again (R30, R133).
DESIGN CHOICE (log entries 2 and 11; unsafe for a claim that compares power-ups): the free values are read at the counter
`powerUps` alone, so two blocks, or two runs of one, that power up at equal counters get equal values; the spec leaves open
whether the power-up values of different blocks are related. No statement rests on it. -/
def State.powerUp (s : State) : State :=
  { s with
    acc := Config.powerUpAcc s.powerUps
    vld := Config.powerUpVld s.powerUps
    ok := Config.powerUpOk s.powerUps
    launched := false
    powerUps := s.powerUps + 1 }

/-- The outside world's events from here on. -/
def State.withPending (es : List Event) (s : State) : State := { s with pending := es }

/-- The output ports, each driven directly from its register (R32). -/
def State.outputs (s : State) : Outputs := ⟨s.acc, s.vld, s.ok⟩

end Sys2Proof.Machine
end

