-- ==== Sys2Proof/Machine/Commands.lean ====
section
/-! DEFINITION. The meanings of the four commands. Each assumes an edge that accepts the command (`rst` = 0, `cmd_valid` = 1),
so each advances the command index (R25, R86). All reads see the state before the step (R11). -/

namespace Sys2Proof.Machine

/-- NOP: no register changes (R81). -/
def execNop (s : State) : Host.Outcome State Fault Refusal :=
  .next s.advance

/-- INIT: `acc <- d`, and any verdict is dropped (R82). -/
def execInit (seed : Byte) (s : State) : Host.Outcome State Fault Refusal :=
  .next ((s.setAcc seed).dropVerdict).advance

/-- UPDATE: `acc <- T[acc ^ d]`, and any verdict is dropped (R83). -/
def execUpdate (byte : Byte) (s : State) : Host.Outcome State Fault Refusal :=
  .next ((s.setAcc (T (tableIndex byte s))).dropVerdict).advance

/-- CHECK: `vld <- 1` and `ok <- (acc == d)`; a mismatch is a result, not an exception (R84, R124). -/
def execCheck (expected : Byte) (s : State) : Host.Outcome State Fault Refusal :=
  .next (s.recordVerdict (matchesAcc expected s)).advance

end Sys2Proof.Machine
end

