-- ==== Sys2Proof/Machine/Dispatch.lean ====
section
/-! DEFINITION. One arm per command, each a direct call of its meaning. -/

namespace Sys2Proof.Machine

def exec (i : Instr) (s : State) : Host.Outcome State Fault Refusal :=
  match i with
  | .nop => Sys2Proof.Machine.execNop s
  | .init seed => Sys2Proof.Machine.execInit seed s
  | .update byte => Sys2Proof.Machine.execUpdate byte s
  | .check expected => Sys2Proof.Machine.execCheck expected s

end Sys2Proof.Machine
end

