-- ==== Sys2Proof/Machine/Cycle.lean ====
section
/-! DEFINITION. What one event does: the cycle function of R86, the runs a model refuses (R126, R131), and power-up (R133). -/

namespace Sys2Proof.Machine

/-- The cycle function: reset wins over a command, then idle, then the decoded command (R86, R142, R66). -/
def cycle (p : Sample) (s : State) : Host.Outcome State Fault Refusal :=
  if p.rst then .next s.resetBlock
  else if p.cmdValid then exec (decode p.cmd) s
  else .next s

/-- A rising edge of `clk`: refused where an input is undefined (R31), where another requester drives it (R131), or where
the block has not been reset and is not being reset (R30); else the cycle function. Which refusal comes first: log entry 6. -/
def onEdge (i : Inputs) (s : State) : Host.Outcome State Fault Refusal :=
  match i.sample with
  | none => .refused .undefinedInput
  | some p =>
    if i.driver != s.requester then .refused .secondRequester
    else if !p.rst && !s.launched then .refused .unreset
    else cycle p s

/-- One event from outside (R133, R141). -/
def onEvent (e : Event) (s : State) : Host.Outcome State Fault Refusal :=
  match e with
  | .edge i => onEdge i s
  | .powerCycle => .next s.powerUp

/-- The next event, if there is one; without a rising edge the state holds (R133). Log entry 4. -/
def nextEvent (s : State) : Host.Outcome State Fault Refusal :=
  match s.pending with
  | [] => .next s
  | e :: rest => onEvent e (s.withPending rest)

/-- A requester's edge at which every port is defined (R9, R31). -/
def Sample.drivenBy (p : Sample) (requester : Nat) : Event :=
  .edge ⟨requester, some p.rst, some p.cmdValid, some p.cmd⟩

/-- The ports at an edge that presents a command word (R9). -/
def presenting (w : Word) : Sample := ⟨false, true, w⟩

/-- Consecutive edges at which a requester drives the ports (R146). -/
def drive (requester : Nat) (ps : List Sample) : List Event :=
  ps.map fun p => p.drivenBy requester

/-- The edges at which a requester presents a sequence of commands, one at each of consecutive edges (R146). -/
def present (requester : Nat) (commands : List Instr) : List Event :=
  drive requester (commands.map fun i => presenting (encode i))

/-- The edge at which the requester presents the number `n` as a command; an undefined `cmd` where `n` is no 10-bit word. -/
def numberEdge (requester n : Nat) : Event :=
  .edge ⟨requester, some false, some true,
    if n < 2 ^ Config.commandWidth then some (BitVec.ofNat 10 n) else none⟩

end Sys2Proof.Machine
end

