-- ==== Sys2Proof/Machine/Step.lean ====
section
/-! DEFINITION. One step of the machine, and how a word comes to be its next command. -/

namespace Sys2Proof.Machine

/-- One step: the next event takes place (R12). -/
def step (s : State) : Host.Outcome State Fault Refusal := nextEvent s

/-- The requester presents the word at the very next edge, to a launched block (log entry 5). -/
def State.withFetchWord (s : State) (nbits w : Nat) : State :=
  { s with launched := true, pending := numberEdge s.requester (w % 2 ^ nbits) :: s.pending }

end Sys2Proof.Machine
end

