-- ==== Sys2Proof/Machine/Pseudo.lean ====
section
/-! DEFINITION. The pseudo-commands' expansions: each is the whole meaning of its pseudo-command (R69 to R73). -/

namespace Sys2Proof

/-- The source's `block`: a seed, then one UPDATE a byte (R70). -/
def blockCommands (seed : Byte) (bytes : List Byte) : List Instr :=
  .init seed :: bytes.map .update

/-- Validation by comparison with the trailer: the frame's prefix from seed 0, then CHECK of the trailer (R71, R72). -/
def trailerForm (pre : List Byte) (trailer : Byte) : List Instr :=
  blockCommands Config.seed pre ++ [.check trailer]

/-- Validation by the round trip: the whole frame from seed 0, then CHECK of 0x00 (R73). -/
def roundTripForm (frame : List Byte) : List Instr :=
  blockCommands Config.seed frame ++ [.check 0x00]

/-- The commands a pseudo-command stands for (R69 to R73). -/
def Pseudo.expand : Pseudo → List Instr
  | .clear => [.init 0x00]
  | .block seed bytes => blockCommands seed bytes
  | .vrom pre trailer => trailerForm pre trailer
  | .vsp pre trailer => trailerForm pre trailer
  | .vrt bytes => roundTripForm bytes

end Sys2Proof
end

