-- ==== Sys2Proof/Machine/Assembler.lean ====
section
/-! DEFINITION. The assembler of R68: one command a line, and its inverse. What the rule leaves open: log entry 7.
Pseudo-commands are not read from text: R70 writes one with the `;` that begins a comment in R68. -/

namespace Sys2Proof.Machine

/-- Why a line does not assemble (R68). -/
inductive AsmError where
  /-- The line's first word is no mnemonic. -/
  | unknownMnemonic
  /-- INIT, UPDATE or CHECK stands without its `imm8`. -/
  | missingOperand
  /-- NOP stands with an operand, or another command with more than one. -/
  | unexpectedOperand
  /-- The operand is no hexadecimal literal 0x00 to 0xFF and no decimal literal 0 to 255. -/
  | badImmediate
  deriving DecidableEq, Repr

/-- A letter in upper case; any other character as it stands. -/
def upperCase (c : Char) : Char :=
  if 97 ≤ c.toNat ∧ c.toNat ≤ 122 then Char.ofNat (c.toNat - 32) else c

/-- A space or a tab. -/
def isBlank (c : Char) : Bool := c == ' ' || c == '\t'

/-- The line without its comment: the text from `;` on (R68). -/
def dropComment (line : List Char) : List Char := line.takeWhile (· != ';')

/-- The words of a line, parted by blanks; `word` is what has been read of the current one. -/
def wordsFrom (word : List Char) : List Char → List (List Char)
  | [] => if word.isEmpty then [] else [word]
  | c :: cs =>
    if isBlank c then
      if word.isEmpty then wordsFrom [] cs else word :: wordsFrom [] cs
    else wordsFrom (word ++ [c]) cs

/-- A digit's value in base 10. -/
def decimalDigit (c : Char) : Option Nat :=
  if 48 ≤ c.toNat ∧ c.toNat ≤ 57 then some (c.toNat - 48) else none

/-- A digit's value in base 16, in either case. -/
def hexDigit (c : Char) : Option Nat :=
  if 65 ≤ (upperCase c).toNat ∧ (upperCase c).toNat ≤ 70 then some ((upperCase c).toNat - 55) else decimalDigit c

/-- The value of digits in a base, continuing from `value`; none where a character is no digit. -/
def digitsFrom (base : Nat) (digit : Char → Option Nat) (value : Nat) : List Char → Option Nat
  | [] => some value
  | c :: cs =>
    match digit c with
    | some n => digitsFrom base digit (value * base + n) cs
    | none => none

/-- A literal: `0x` and hexadecimal digits, or decimal digits, at least one digit. -/
def literal : List Char → Option Nat
  | [] => none
  | '0' :: 'x' :: ds => if ds.isEmpty then none else digitsFrom 16 hexDigit 0 ds
  | ds => digitsFrom 10 decimalDigit 0 ds

/-- The `imm8` operand: a literal of a value from 0 to 255 (R68). -/
def imm8 (word : List Char) : Except AsmError Byte :=
  match literal word with
  | some n => if n < 256 then .ok (BitVec.ofNat 8 n) else .error .badImmediate
  | none => .error .badImmediate

/-- A command with its one operand (R68). -/
def withImm8 (command : Byte → Instr) : List (List Char) → Except AsmError Instr
  | [] => .error .missingOperand
  | [word] =>
    match imm8 word with
    | .ok d => .ok (command d)
    | .error e => .error e
  | _ :: _ :: _ => .error .unexpectedOperand

/-- The command that a mnemonic and its operands name (R68). -/
def commandOf (mnemonic : List Char) (operands : List (List Char)) : Except AsmError Instr :=
  if mnemonic = ['N', 'O', 'P'] then
    if operands.isEmpty then .ok .nop else .error .unexpectedOperand
  else if mnemonic = ['I', 'N', 'I', 'T'] then withImm8 .init operands
  else if mnemonic = ['U', 'P', 'D', 'A', 'T', 'E'] then withImm8 .update operands
  else if mnemonic = ['C', 'H', 'E', 'C', 'K'] then withImm8 .check operands
  else .error .unknownMnemonic

/-- The word of one line; no word where the line holds no command (R68). -/
def assembleLine (line : List Char) : Except AsmError (Option Word) :=
  match wordsFrom [] (dropComment line) with
  | [] => .ok none
  | mnemonic :: operands =>
    match commandOf (mnemonic.map upperCase) operands with
    | .ok i => .ok (some (encode i))
    | .error e => .error e

/-- The requester's command list that a text of lines stands for (R25, R68). -/
def assemble : List (List Char) → Except AsmError (List Word)
  | [] => .ok []
  | line :: lines =>
    match assembleLine line, assemble lines with
    | .ok none, .ok ws => .ok ws
    | .ok (some w), .ok ws => .ok (w :: ws)
    | .error e, _ => .error e
    | .ok _, .error e => .error e

/-- The character of a hexadecimal digit. -/
def hexChar (n : Nat) : Char := Char.ofNat (if n < 10 then 48 + n else 55 + n)

/-- A byte as the literal `0xNN`. -/
def byteText (b : Byte) : List Char := ['0', 'x', hexChar (b.toNat / 16), hexChar (b.toNat % 16)]

/-- A command's mnemonic as text (R62, R68). -/
def mnemonicText : Instr → List Char
  | .nop => ['N', 'O', 'P']
  | .init _ => ['I', 'N', 'I', 'T']
  | .update _ => ['U', 'P', 'D', 'A', 'T', 'E']
  | .check _ => ['C', 'H', 'E', 'C', 'K']

/-- What stands after a command's mnemonic: nothing, or a blank and its `imm8` (R68). -/
def operandText : Instr → List Char
  | .nop => []
  | .init seed => ' ' :: byteText seed
  | .update byte => ' ' :: byteText byte
  | .check expected => ' ' :: byteText expected

end Sys2Proof.Machine
end

