-- ==== Sys2Proof/Machine/Units.lean ====
section
/-! DEFINITION. Several blocks side by side: each has its own registers and its own requester, and they share nothing (R34, R131). -/

namespace Sys2Proof.Machine

/-- One step of the `k`-th of several blocks. -/
def stepUnit (units : List State) (k : Fin units.length) : Host.Outcome (List State) Fault Refusal :=
  match step units[k] with
  | .next t => .next (units.set k t)
  | .fault f => .fault f
  | .refused r => .refused r

end Sys2Proof.Machine
end

