-- ==== Sys2Proof/Safety.lean ====
section
/-! DEFINITION. What claims about the machine are written in: its runs, what a schedule accepts, which schedules run without
a refusal, the invariants, and the requester's duties for a frame (R148). -/

namespace Sys2Proof.Machine

/-- `k` steps of the machine. -/
def run (k : Nat) (s : State) : Host.Outcome State Fault Refusal := Host.Core.run Sys2Proof.core k s

/-- The command a sample gets accepted: none at a reset and none at an idle edge (R25, R142). -/
def Sample.accepted (p : Sample) : Option Instr :=
  if p.rst then none else if p.cmdValid then some (decode p.cmd) else none

/-- The command an event gets accepted (R25). -/
def Event.accepted : Event → Option Instr
  | .edge i =>
    match i.sample with
    | some p => p.accepted
    | none => none
  | .powerCycle => none

/-- The length of the requester's list as its schedule makes it: the commands accepted, and those still to be (R25). -/
def State.listLength (s : State) : Nat := s.pc + (s.pending.filterMap Event.accepted).length

/-- An idle edge or a NOP: nothing but the command index changes (R66, R81). -/
def Sample.transparent (p : Sample) : Bool :=
  match p.accepted with
  | none => !p.rst
  | some .nop => true
  | some (.init _) => false
  | some (.update _) => false
  | some (.check _) => false

/-- An edge that does not clear the verdict: no reset, no INIT, no UPDATE (R22). -/
def Sample.keepsVerdict (p : Sample) : Bool :=
  match p.accepted with
  | none => !p.rst
  | some .nop => true
  | some (.init _) => false
  | some (.update _) => false
  | some (.check _) => true

/-- An edge that does not restart a fold: no reset and no INIT (R102). -/
def Sample.keepsFold (p : Sample) : Bool :=
  match p.accepted with
  | none => !p.rst
  | some .nop => true
  | some (.init _) => false
  | some (.update _) => true
  | some (.check _) => true

/-- The byte an accepted UPDATE folds in. -/
def Sample.foldedByte (p : Sample) : Option Byte :=
  match p.accepted with
  | some (.update byte) => some byte
  | some .nop => none
  | some (.init _) => none
  | some (.check _) => none
  | none => none

/-- Schedules the model refuses nowhere: every edge defined and driven by the block's own requester, and a reset before any other
edge of a block that has not been launched since power-up (R30, R31, R131). -/
def cleanSchedule (requester : Nat) (launched : Bool) : List Event → Bool
  | [] => true
  | .powerCycle :: es => cleanSchedule requester false es
  | .edge i :: es =>
    match i.sample with
    | none => false
    | some p => i.driver == requester && (p.rst || launched) && cleanSchedule requester true es

/-- One round of the CRC in the polynomial's normal form: the most significant bit leaves first, and `P_norm` is XORed in where
it was 1 (R7, R42: the form whose bit reversal `step8` is). -/
def normalRound (c : Byte) : Byte :=
  if c.getLsbD 7 then (c <<< 1) ^^^ Config.polyNorm else c <<< 1

/-- `n` rounds in the normal form. -/
def normalRounds : Nat → Byte → Byte
  | 0, c => c
  | n + 1, c => normalRounds n (normalRound c)

/-- R33: in a launched block, a pass is held only where a verdict is held. -/
abbrev VerdictInv (s : State) : Prop := s.launched = true → s.ok = true → s.vld = true

/-- Where a sequence of commands, presented at consecutive edges by the block's requester, leaves it; none where it stops. -/
def stateAfter (commands : List Instr) (s : State) : Option State :=
  match run commands.length (s.withPending (present s.requester commands)) with
  | .next t => some t
  | .fault _ => none
  | .refused _ => none

/-- The commands of a schedule that do something: those accepted, without NOPs. A CHECK stays, in the middle of a frame too
(DESIGN CHOICE, log entry 13). -/
def workOf (ps : List Sample) : List Instr := (ps.filterMap Sample.accepted).filter (· != .nop)

/-- The requester's duties (a) to (d) of R148 for a frame, from a block in state `s`: no reset in the middle, and the commands
accepted are the frame's validation in one of its two forms, whose INIT may be left out where `acc` is 0x00 as after reset.
DESIGN CHOICE (log entry 13, safe): a CHECK between the frame's UPDATEs, on which R148(c) is silent, is taken as a breach, and so
are commands before the frame's INIT or after its last CHECK. -/
def FrameDuties (s : State) (pre : List Byte) (trailer : Byte) (ps : List Sample) : Prop :=
  (∀ p ∈ ps, p.rst = false) ∧
    (workOf ps = trailerForm pre trailer ∨
      workOf ps = roundTripForm (pre ++ [trailer]) ∨
      (s.acc = Config.seed ∧
        (workOf ps = pre.map .update ++ [.check trailer] ∨
          workOf ps = (pre ++ [trailer]).map .update ++ [.check 0x00])))

/-- Two byte sequences of one length that differ in exactly one position (R109). -/
def DifferInOneByte (f g : List Byte) : Prop :=
  ∃ (before after : List Byte) (x y : Byte), x ≠ y ∧ f = before ++ x :: after ∧ g = before ++ y :: after

end Sys2Proof.Machine
end

