-- ==== Sys2Proof/Certificates/Slice0/Obligations.lean ====
section
/-! DEFINITION. The statements for the provers, in the order of OBLIGATIONS.json. -/

open Sys2Proof Sys2Proof.Machine

/-! ### The encoding -/

/-- R62 (with R61 and R63 for the fields): the command by the range its word lies in, with `d` the word's low byte. -/
def Obligations.WordRangeSelectsCommand : Prop :=
  ∀ w : Word,
    (w.toNat ≤ 0x0FF → decode w = .nop) ∧
    (0x100 ≤ w.toNat ∧ w.toNat ≤ 0x1FF → decode w = .init (BitVec.ofNat 8 (w.toNat - 0x100))) ∧
    (0x200 ≤ w.toNat ∧ w.toNat ≤ 0x2FF → decode w = .update (BitVec.ofNat 8 (w.toNat - 0x200))) ∧
    (0x300 ≤ w.toNat → decode w = .check (BitVec.ofNat 8 (w.toNat - 0x300))) ∧
    (opcodeTable.map fun r => (r.mnemonic, r.mask, r.pattern)) =
      [("NOP", 0x300, 0x000), ("INIT", 0x300, 0x100), ("UPDATE", 0x300, 0x200), ("CHECK", 0x300, 0x300)]

/-- R65: every word lies in exactly one row of the opcode table, and decodes to that row's command. -/
def Obligations.EveryWordIsOfExactlyOneRow : Prop :=
  ∀ w : Word, (opcodeTable.filter fun r => r.covers w).map OpcodeRow.mnemonic = [(decode w).mnemonic]

/-- R61, R63: a word is `{op, d}`, as a number `op * 256 + d`, with `d` in `cmd[7:0]` as it stands and `op` in `cmd[9:8]`;
the operand of the decoded command is `d`. -/
def Obligations.WordIsOperationAndByte : Prop :=
  ∀ w : Word,
    w.toNat = (opField w).toNat * 256 + (dField w).toNat ∧
    (∀ k, k < 2 → (opField w).getLsbD k = w.getLsbD (8 + k)) ∧
    (∀ k, k < 8 → (dField w).getLsbD k = w.getLsbD k) ∧
    (decode w = .nop ∨ decode w = .init (dField w) ∨ decode w = .update (dField w) ∨ decode w = .check (dField w))

/-- R64: all 256 words under `op` = 0b00 are the one NOP, and 0x000 is the word NOP is written as. -/
def Obligations.NopIgnoresItsByte : Prop :=
  (∀ d : Byte, decode (0b00#2 ++ d) = .nop) ∧ encode .nop = 0x000

/-- Decoding an encoded command gives it back, through the host's view of the decoder too. -/
def Obligations.DecodeOfEncodeIsTheCommand : Prop :=
  ∀ i : Instr, i.wf = true →
    decode (encode i) = i ∧ decodeTableWord 16 (encode i).toNat = some i

/-- Encoding a decoded word gives it back, but for a NOP word, which gives the canonical NOP (R64). -/
def Obligations.EncodeOfDecodeIsTheWord : Prop :=
  ∀ w : Word,
    (opField w ≠ 0b00 → encode (decode w) = w) ∧ (opField w = 0b00 → encode (decode w) = 0x000)

/-- Numbers that need more than 10 bits are no command words, and are refused by name; all others decode (R61, R65). -/
def Obligations.OnlyTenBitNumbersDecode : Prop :=
  ∀ n : Nat,
    (n < 1024 → decodeNumber n = .ok (decode (BitVec.ofNat 10 n))) ∧
    (1024 ≤ n → decodeNumber n = .error .notACommandWord)

/-- A few words written out from R62: `INIT 0x00`, `UPDATE 0x28`, `CHECK 0x39` and a NOP with a nonzero byte. -/
def Obligations.WrittenOutWordsDecode : Prop :=
  decode 0b0100000000 = .init 0x00 ∧ decode 0b1000101000 = .update 0x28 ∧
    decode 0b1100111001 = .check 0x39 ∧ decode 0b0010100101 = .nop

/-- R69 to R73: the words that each pseudo-command expands to. -/
def Obligations.PseudoCommandsExpandToTheirWords : Prop :=
  Pseudo.clear.expand.map encode = [0x100] ∧
  (∀ (seed : Byte) (bytes : List Byte),
    (Pseudo.block seed bytes).expand.map encode =
      (0x100 ||| seed.setWidth 10) :: bytes.map (fun b => 0x200 ||| b.setWidth 10)) ∧
  (∀ r0 r1 r2 r3 r4 r5 r6 r7 : Byte,
    (Pseudo.vrom [r0, r1, r2, r3, r4, r5, r6] r7).expand.map encode =
      [0x100, 0x200 ||| r0.setWidth 10, 0x200 ||| r1.setWidth 10, 0x200 ||| r2.setWidth 10, 0x200 ||| r3.setWidth 10,
        0x200 ||| r4.setWidth 10, 0x200 ||| r5.setWidth 10, 0x200 ||| r6.setWidth 10, 0x300 ||| r7.setWidth 10]) ∧
  (∀ s0 s1 s2 s3 s4 s5 s6 s7 s8 : Byte,
    (Pseudo.vsp [s0, s1, s2, s3, s4, s5, s6, s7] s8).expand.map encode =
      [0x100, 0x200 ||| s0.setWidth 10, 0x200 ||| s1.setWidth 10, 0x200 ||| s2.setWidth 10, 0x200 ||| s3.setWidth 10,
        0x200 ||| s4.setWidth 10, 0x200 ||| s5.setWidth 10, 0x200 ||| s6.setWidth 10, 0x200 ||| s7.setWidth 10,
        0x300 ||| s8.setWidth 10]) ∧
  (∀ bytes : List Byte,
    (Pseudo.vrt bytes).expand.map encode =
      0x100 :: bytes.map (fun b => 0x200 ||| b.setWidth 10) ++ [0x300])

/-! ### The lookup table -/

/-- R41: the table has 256 entries, and entry `i` is `step8(i)`. -/
def Obligations.TableEntriesAreEightRounds : Prop :=
  crcTable.length = 256 ∧ ∀ i : Byte, T i = step8 i

/-- R44: the table maps 0x00 to 0x00, is a bijection, and is linear over GF(2). -/
def Obligations.TableIsALinearBijection : Prop :=
  T 0x00 = 0x00 ∧
  (∀ x y : Byte, T x = T y → x = y) ∧
  (∀ z : Byte, ∃ x : Byte, T x = z) ∧
  (∀ x y : Byte, T (x ^^^ y) = T x ^^^ T y)

/-- R7, R42: the LSB-first rounds with 0x8C are the bit reversal of the MSB-first rounds with x^8+x^5+x^4+1's own bits, 5, 4 and 0. -/
def Obligations.ReflectedStepMirrorsThePolynomial : Prop :=
  (∀ k, k < 8 → Config.polyNorm.getLsbD k = decide (k = 5 ∨ k = 4 ∨ k = 0)) ∧
  (∀ k, k < 8 → Config.polyRefl.getLsbD k = Config.polyNorm.getLsbD (7 - k)) ∧
  (∀ c : Byte, step8 c.reverse = (normalRounds 8 c).reverse)

/-! ### The four commands -/

/-- R81: a NOP word with any `d` runs NOP, which changes no register; the command index advances (R25). -/
def Obligations.NopKeepsAllRegisters : Prop :=
  ∀ (d : Byte) (s : State),
    decode (0b00#2 ++ d) = .nop ∧ exec .nop s = .next { s with pc := s.pc + 1 }

/-- R82: INIT loads its byte into `acc` and drops the verdict; the command index advances (R25), and nothing else changes. -/
def Obligations.InitLoadsTheSeed : Prop :=
  ∀ (d : Byte) (s : State),
    decode (0b01#2 ++ d) = .init d ∧
    exec (.init d) s = .next { s with acc := d, vld := false, ok := false, pc := s.pc + 1 }

/-- R83: UPDATE writes `T[acc ^ d]` to `acc` and drops the verdict; the command index advances (R25), and nothing else changes. -/
def Obligations.UpdateWritesTheTableEntry : Prop :=
  ∀ (d : Byte) (s : State),
    decode (0b10#2 ++ d) = .update d ∧
    exec (.update d) s = .next { s with acc := T (s.acc ^^^ d), vld := false, ok := false, pc := s.pc + 1 }

/-- R84: CHECK sets `vld` and writes whether `acc` equals its byte to `ok`; the command index advances (R25), and nothing else,
`acc` included, changes. -/
def Obligations.CheckRecordsTheVerdict : Prop :=
  ∀ (d : Byte) (s : State),
    decode (0b11#2 ++ d) = .check d ∧
    exec (.check d) s = .next { s with vld := true, ok := decide (s.acc = d), pc := s.pc + 1 }

/-- R85: UPDATE is the eight LSB-first rounds over `acc ^ d`, for every accumulator and byte. -/
def Obligations.UpdateIsBitSerial : Prop :=
  ∀ (acc d : Byte) (s : State), s.acc = acc →
    T (acc ^^^ d) = step8 (acc ^^^ d) ∧
    exec (.update d) s = .next { s with acc := step8 (acc ^^^ d), vld := false, ok := false, pc := s.pc + 1 }

/-- R124: a mismatch is a data result. CHECK completes with (`vld`, `ok`) = (1, 0), read as CrcError, `acc` as before, and any
command completes after it. -/
def Obligations.MismatchIsADataResult : Prop :=
  ∀ (d : Byte) (s : State), s.acc ≠ d →
    ∃ t, exec (.check d) s = .next t ∧ t.vld = true ∧ t.ok = false ∧ t.reading = .crcError ∧ t.acc = s.acc ∧
      ∀ i, ∃ u, exec i t = .next u

/-! ### Edges: reset, idle, commands, and what is refused -/

/-- As 10_state.md section 4 and 70_reset_and_hazards.md section 1 say of the registers: an edge with `rst` = 1 gives `acc` = 0x00, `vld` = 0, `ok` = 0, whatever the block held and whatever command is
presented; the command index is unchanged, and a second such edge leaves the same state. That the edge also sets `launched`, no
register of the block, is the model's (DEDUCED, log entry 1). -/
def Obligations.ResetEdgeGivesTheResetState : Prop :=
  ∀ (s : State) (v v' : Bool) (w w' : Word) (rest : List Event),
    step (s.withPending (Sample.drivenBy ⟨true, v, w⟩ s.requester :: rest)) =
      .next { s with acc := 0x00, vld := false, ok := false, launched := true, pending := rest } ∧
    run 2 (s.withPending (Sample.drivenBy ⟨true, v, w⟩ s.requester :: Sample.drivenBy ⟨true, v', w'⟩ s.requester :: rest)) =
      .next { s with acc := 0x00, vld := false, ok := false, launched := true, pending := rest }

/-- The state right after reset: the registers of R29, the command index at its start (R25). The fields `launched`,
`requester`, `pending` and `powerUps` are the model's own (log entries 1, 2, 3). -/
def Obligations.ResetStateHoldsItsValues : Prop :=
  State.reset.acc = 0x00 ∧ State.reset.vld = false ∧ State.reset.ok = false ∧ State.reset.pc = 0 ∧
    State.reset.outputs = ⟨0x00, false, false⟩ ∧ VerdictInv State.reset

/-- A step at an edge that presents a word is `exec` of the decoded command, with the edge taken off the schedule. -/
def Obligations.StepRunsTheDecodedCommand : Prop :=
  ∀ (s : State) (w : Word) (rest : List Event), s.launched = true →
    step (s.withPending ((presenting w).drivenBy s.requester :: rest)) = exec (decode w) (s.withPending rest)

/-- R66: at an edge with `cmd_valid` = 0 the word is not decoded and no state changes, the command index neither; the effect on
the registers is a NOP's. -/
def Obligations.IdleEdgeChangesNothing : Prop :=
  ∀ (s : State) (w : Word) (rest : List Event), s.launched = true →
    step (s.withPending (Sample.drivenBy ⟨false, false, w⟩ s.requester :: rest)) = .next (s.withPending rest) ∧
    exec .nop (s.withPending rest) = .next { s.withPending rest with pc := s.pc + 1 }

/-- The cycle function of 40_crc_commands.md section 5, with `op` and `d` taken from the word as a number; and where an edge is
refused, an input is undefined, or the block has not been reset, or a second requester drives it. The field `launched` is the
model's (DEDUCED, log entry 1); R86 names the first two refusals only, and the third is 60_exceptions.md section 3's in the
model's form (DESIGN CHOICE, log entry 3). -/
def Obligations.EdgeIsTheCycleFunction : Prop :=
  (∀ (s : State) (p : Sample) (rest : List Event), p.rst = true ∨ s.launched = true →
    ∃ t, step (s.withPending (p.drivenBy s.requester :: rest)) = .next t ∧
      (t.acc, t.vld, t.ok) =
        (if p.rst = true then (0x00, false, false)
        else if p.cmdValid = false then (s.acc, s.vld, s.ok)
        else if p.cmd.toNat / 256 = 0 then (s.acc, s.vld, s.ok)
        else if p.cmd.toNat / 256 = 1 then (BitVec.ofNat 8 (p.cmd.toNat % 256), false, false)
        else if p.cmd.toNat / 256 = 2 then (T (s.acc ^^^ BitVec.ofNat 8 (p.cmd.toNat % 256)), false, false)
        else (s.acc, true, decide (s.acc = BitVec.ofNat 8 (p.cmd.toNat % 256)))) ∧
      t.outputs = ⟨t.acc, t.vld, t.ok⟩ ∧
      t.pc = s.pc + (if p.rst = false ∧ p.cmdValid = true then 1 else 0) ∧
      t.launched = true ∧ t.requester = s.requester ∧ t.pending = rest ∧ t.powerUps = s.powerUps) ∧
  (∀ (s : State) (i : Inputs) (rest : List Event) (r : Refusal),
    step (s.withPending (.edge i :: rest)) = .refused r →
      (i.rst = none ∨ i.cmdValid = none ∨ i.cmd = none) ∨
      (s.launched = false ∧ i.rst = some false) ∨
      i.driver ≠ s.requester)

/-- The two conditions outside the contract (60_exceptions.md section 1; what marks a block not reset since power-up: log entry 1).
From such a block, every run that begins with a defined edge of its requester without reset is refused as `unreset`; and every run
that begins with an edge at which a port is undefined is refused as `undefinedInput`, also where the block is unreset or another
requester drives the edge: that this refusal comes first is the model's choice (DESIGN CHOICE, log entry 6), since the spec does
not order the refusals. -/
def Obligations.RunsOutsideTheContractAreRefused : Prop :=
  (∀ (s : State) (p : Sample) (rest : List Event) (k : Nat), s.launched = false → p.rst = false →
    run (k + 1) (s.withPending (p.drivenBy s.requester :: rest)) = .refused .unreset) ∧
  (∀ (s : State) (i : Inputs) (rest : List Event) (k : Nat), i.rst = none ∨ i.cmdValid = none ∨ i.cmd = none →
    run (k + 1) (s.withPending (.edge i :: rest)) = .refused .undefinedInput)

/-- A defined edge that another requester drives is refused, whatever it presents (R131; the model's form: log entry 3), also where
the block is unreset: that this refusal comes before `unreset` is the model's choice (DESIGN CHOICE, log entry 6). -/
def Obligations.SecondRequesterIsRefused : Prop :=
  ∀ (s : State) (p : Sample) (other : Nat) (rest : List Event), other ≠ s.requester →
    step (s.withPending (p.drivenBy other :: rest)) = .refused .secondRequester

/-- R133 as the model takes it (log entries 2 and 4): without a rising edge the state holds; after a power-up the registers hold
free values, nothing else of the run has changed, and the block goes on only by a reset edge. -/
def Obligations.PowerUpNeedsAReset : Prop :=
  ∀ (s : State) (rest : List Event),
    step (s.withPending []) = .next (s.withPending []) ∧
    ∃ t, step (s.withPending (.powerCycle :: rest)) = .next t ∧
      t.launched = false ∧ t.pc = s.pc ∧ t.requester = s.requester ∧ t.pending = rest ∧
      ∀ (p : Sample) (after : List Event),
        (p.rst = false → step (t.withPending (p.drivenBy t.requester :: after)) = .refused .unreset) ∧
        (p.rst = true → step (t.withPending (p.drivenBy t.requester :: after)) =
          .next { t with acc := 0x00, vld := false, ok := false, launched := true, pending := after })

/-- The host's placed word is the very next command, on a launched block (log entry 5). -/
def Obligations.PlacedWordRunsNext : Prop :=
  ∀ (s : State) (w : Word),
    step (s.withFetchWord 16 w.toNat) = exec (decode w) { s with launched := true }

/-! ### Invariants and whole-machine rules -/

/-- R33: in a launched block, `ok` = 1 implies `vld` = 1: so it is right after reset, and every step keeps it. (Before a reset the
flags are unspecified, R30, log entry 2.) -/
def Obligations.StepKeepsPassOnlyWithVerdict : Prop :=
  VerdictInv State.reset ∧ ∀ s t : State, VerdictInv s → step s = .next t → VerdictInv t

/-- Every step keeps the length of the requester's list: the commands accepted and those still to be (R25). -/
def Obligations.StepKeepsTheListLength : Prop :=
  ∀ s t : State, step s = .next t → t.listLength = s.listLength

/-- R25: the command index starts at 0 and is, at any moment of a run, the number of commands accepted so far: so it is the
position in the list of the commands the schedule gets accepted, and equals the list's length at the schedule's end. -/
def Obligations.CommandIndexCountsAcceptedCommands : Prop :=
  State.reset.pc = 0 ∧
  ∀ (s t : State) (es : List Event) (k : Nat), run k (s.withPending es) = .next t →
    t.pc = s.pc + ((es.take k).filterMap Event.accepted).length ∧
    (es.length ≤ k → t.pc = s.pc + (es.filterMap Event.accepted).length)

/-- Only reset, INIT, UPDATE (and a power-up, log entry 2) change the accumulator (R21). -/
def Obligations.OnlyResetInitUpdateChangeTheAccumulator : Prop :=
  ∀ s t : State, step s = .next t → t.acc ≠ s.acc →
    (∃ rest, s.pending = .powerCycle :: rest) ∨
    (∃ (p : Sample) (rest : List Event), s.pending = p.drivenBy s.requester :: rest ∧
      (p.rst = true ∨ ∃ d, p.accepted = some (.init d) ∨ p.accepted = some (.update d)))

/-- Only CHECK (and a power-up, log entry 2) raises `vld`, and it writes the comparison to `ok`; only reset, INIT, UPDATE
(and a power-up) clear `vld` (R22, R26). -/
def Obligations.OnlyCheckRaisesTheVerdict : Prop :=
  ∀ s t : State, step s = .next t →
    (s.vld = false → t.vld = true →
      (∃ rest, s.pending = .powerCycle :: rest) ∨
      (∃ (p : Sample) (rest : List Event) (d : Byte), s.pending = p.drivenBy s.requester :: rest ∧ p.accepted = some (.check d) ∧
        t.ok = decide (s.acc = d) ∧ t.acc = s.acc)) ∧
    (s.vld = true → t.vld = false →
      (∃ rest, s.pending = .powerCycle :: rest) ∨
      (∃ (p : Sample) (rest : List Event), s.pending = p.drivenBy s.requester :: rest ∧ p.keepsVerdict = false))

/-- R22: in a launched block, after any defined edges, the output `vld` is 1 exactly when a CHECK has been performed and no INIT,
UPDATE or reset since: a CHECK among these edges, or an earlier one whose verdict was held before them. -/
def Obligations.VldTellsACheckSinceTheLastWrite : Prop :=
  ∀ (s t : State) (ps : List Sample), s.launched = true →
    run ps.length (s.withPending (drive s.requester ps)) = .next t →
      (t.outputs.vld = true ↔
        (s.vld = true ∧ ∀ p ∈ ps, p.keepsVerdict = true) ∨
        ∃ before c after d, ps = before ++ c :: after ∧ c.accepted = some (.check d) ∧
          ∀ p ∈ after, p.keepsVerdict = true)

/-- R23: in a launched block, after any defined edges whose last that is not idle and not a NOP is a CHECK, the output `ok` is 1
exactly when `acc`, which CHECK leaves as it was, equals that CHECK's byte; edges all idle or NOP leave it; and where `vld` is 0,
`ok` is 0 and is not read as a pass (from a state that meets R33). -/
def Obligations.OkIsTheMostRecentComparison : Prop :=
  ∀ (s t : State) (ps : List Sample), s.launched = true →
    run ps.length (s.withPending (drive s.requester ps)) = .next t →
      (∀ before c after d, ps = before ++ c :: after → c.accepted = some (.check d) →
        (∀ p ∈ after, p.transparent = true) → t.outputs.ok = decide (t.acc = d) ∧ t.outputs.vld = true) ∧
      ((∀ p ∈ ps, p.transparent = true) → t.outputs = s.outputs) ∧
      (VerdictInv s → t.vld = false → t.outputs.ok = false ∧ t.reading = .noVerdict)

/-- R28: over any schedule without a power-up, what a run shows depends on nothing but the three registers, the reset status and
the inputs: two blocks that agree in these stop alike or show the same outputs, whatever else differs. -/
def Obligations.OutputsDependOnRegistersAndInputsOnly : Prop :=
  ∀ (s₁ s₂ : State) (es : List Event) (k : Nat),
    s₁.outputs = s₂.outputs → s₁.launched = s₂.launched → s₁.requester = s₂.requester → .powerCycle ∉ es →
      (∀ t₁, run k (s₁.withPending es) = .next t₁ →
        ∃ t₂, run k (s₂.withPending es) = .next t₂ ∧ t₁.outputs = t₂.outputs) ∧
      (∀ r, run k (s₁.withPending es) = .refused r → run k (s₂.withPending es) = .refused r)

/-- As 70_reset_and_hazards.md section 3 says: commands at consecutive edges are all accepted, one an edge, and each is executed in
the state the one before it left. That the block stays `launched` is of the model's own field (DEDUCED, log entry 1). -/
def Obligations.BackToBackCommandsNeverStall : Prop :=
  (∀ (s : State) (is : List Instr) (rest : List Event), s.launched = true →
    ∃ t, run is.length (s.withPending (present s.requester is ++ rest)) = .next t ∧
      t.pending = rest ∧ t.pc = s.pc + is.length ∧ t.launched = true) ∧
  (∀ (s u : State) (i : Instr) (is : List Instr) (rest : List Event), s.launched = true →
    exec i (s.withPending (present s.requester is ++ rest)) = .next u →
      u.pending = present u.requester is ++ rest ∧
      run (is.length + 1) (s.withPending (present s.requester (i :: is) ++ rest)) = run is.length u)

/-- A run never stops exactly when its schedule is clean: every edge defined and driven by the block's own requester, and a reset
before any other edge after power-up. That unreset and undefined runs stop is R86's (a field for it: log entry 1); that an edge of
another requester stops a run rests on R131 in the model's form (DESIGN CHOICE, log entry 3), that a power-up goes on, and asks for
a reset, on R133 in the model's form (DESIGN CHOICE, log entry 2), and that a run goes on with its schedule used up on log entry 4
(DEDUCED). -/
def Obligations.RunsNeverStopExactlyOnCleanSchedules : Prop :=
  ∀ s : State,
    cleanSchedule s.requester s.launched s.pending = true ↔ ∀ k, ∃ t, run k s = .next t

/-- R34: a step of one of several blocks is that block's own step, and leaves every other block as it was. -/
def Obligations.BlocksShareNoState : Prop :=
  ∀ (units units' : List State) (k : Fin units.length), stepUnit units k = .next units' →
    units'.length = units.length ∧
    (∃ t, step units[k] = .next t ∧ units'[k.val]? = some t) ∧
    ∀ j, j ≠ k.val → units'[j]? = units[j]?

/-! ### Folds and frames -/

/-- R101: BLOCK leaves `acc` = `fold(seed, B)`, and no verdict, after n+1 accepted edges; nothing else changes but the index. -/
def Obligations.BlockLeavesTheFold : Prop :=
  ∀ (s : State) (seed : Byte) (bytes : List Byte) (rest : List Event), s.launched = true →
    run (bytes.length + 1)
        (s.withPending (present s.requester (Pseudo.block seed bytes).expand ++ rest)) =
      .next { s with
        acc := fold seed bytes, vld := false, ok := false, pc := s.pc + (bytes.length + 1), pending := rest }

/-- R102: idle edges, NOPs and CHECKs between UPDATEs do not change the fold's `acc`, and an UPDATE after a CHECK clears its
verdict; after an INIT or a reset in the middle, `acc` is the fold of the bytes that follow, from the INIT's seed or from 0x00,
and no verdict is held before the next CHECK. -/
def Obligations.InterleavedEventsAndTheFold : Prop :=
  ∀ (s : State) (ps : List Sample), s.launched = true → (∀ p ∈ ps, p.keepsFold = true) →
    (∃ t, run ps.length (s.withPending (drive s.requester ps)) = .next t ∧
      t.acc = fold s.acc (ps.filterMap Sample.foldedByte) ∧
      ∀ before u after d, ps = before ++ u :: after → u.accepted = some (.update d) →
        (∀ p ∈ after, p.transparent = true) → t.vld = false ∧ t.ok = false) ∧
    (∀ (before : List Sample) (c : Sample) (seed : Byte),
      (c.accepted = some (.init seed) ∨ (c.rst = true ∧ seed = 0x00)) →
        ∃ t, run (before.length + 1 + ps.length)
            (s.withPending (drive s.requester (before ++ c :: ps))) = .next t ∧
          t.acc = fold seed (ps.filterMap Sample.foldedByte) ∧
          ((∀ p ∈ ps, ∀ d, p.accepted ≠ some (.check d)) → t.vld = false ∧ t.ok = false))

/-- R103: VROM on a ROM code frame, of a 7-byte prefix and a trailer, after 9 edges. -/
def Obligations.RomValidationVerdict : Prop :=
  ∀ (s : State) (pre : List Byte) (trailer : Byte), s.launched = true → (Pseudo.vrom pre trailer).wf = true →
    ∃ t, stateAfter (Pseudo.vrom pre trailer).expand s = some t ∧
      (Pseudo.vrom pre trailer).expand.length = 9 ∧
      t.acc = fold 0x00 pre ∧ t.vld = true ∧ (t.ok = true ↔ fold 0x00 pre = trailer)

/-- R104: VSP on a scratchpad frame, of an 8-byte prefix and a trailer, after 10 edges. -/
def Obligations.ScratchpadValidationVerdict : Prop :=
  ∀ (s : State) (pre : List Byte) (trailer : Byte), s.launched = true → (Pseudo.vsp pre trailer).wf = true →
    ∃ t, stateAfter (Pseudo.vsp pre trailer).expand s = some t ∧
      (Pseudo.vsp pre trailer).expand.length = 10 ∧
      t.acc = fold 0x00 pre ∧ t.vld = true ∧ (t.ok = true ↔ fold 0x00 pre = trailer)

/-- R105: VRT of a whole frame of n bytes, after n+2 edges. -/
def Obligations.RoundTripValidationVerdict : Prop :=
  ∀ (s : State) (bytes : List Byte), s.launched = true →
    ∃ t, stateAfter (Pseudo.vrt bytes).expand s = some t ∧
      (Pseudo.vrt bytes).expand.length = bytes.length + 2 ∧
      t.acc = fold 0x00 bytes ∧ t.vld = true ∧ (t.ok = true ↔ fold 0x00 bytes = 0x00)

/-- R106: appending the computed checksum and folding over the extended buffer gives 0x00, from any seed. -/
def Obligations.AppendedChecksumFoldsToZero : Prop :=
  ∀ (s : Byte) (bytes : List Byte), fold s (bytes ++ [fold s bytes]) = 0x00

/-- R107: the two validation forms pass on the same frames; a passing trailer comparison leaves `fold(0, P)` in `acc`, a passing
round trip 0x00. -/
def Obligations.ValidationFormsAgree : Prop :=
  ∀ (s : State) (pre : List Byte) (trailer : Byte), s.launched = true →
    ∃ t u, stateAfter (trailerForm pre trailer) s = some t ∧ stateAfter (roundTripForm (pre ++ [trailer])) s = some u ∧
      (t.reading = .pass ↔ u.reading = .pass) ∧
      t.acc = fold 0x00 pre ∧ (u.reading = .pass → u.acc = 0x00)

/-- R108: the fold from seed 0 is linear in the bytes. -/
def Obligations.FoldIsLinear : Prop :=
  ∀ a b : List Byte, a.length = b.length →
    fold 0x00 (List.zipWith (· ^^^ ·) a b) = fold 0x00 a ^^^ fold 0x00 b

/-- R109: of two frames that differ in exactly one byte, at most one passes validation, in either form. -/
def Obligations.SingleByteErrorsAreDetected : Prop :=
  ∀ (s : State) (pre pre' : List Byte) (trailer trailer' : Byte),
    DifferInOneByte (pre ++ [trailer]) (pre' ++ [trailer']) →
      ¬((stateAfter (trailerForm pre trailer) s).map State.reading = some .pass ∧
        (stateAfter (trailerForm pre' trailer') s).map State.reading = some .pass) ∧
      ¬((stateAfter (roundTripForm (pre ++ [trailer])) s).map State.reading = some .pass ∧
        (stateAfter (roundTripForm (pre' ++ [trailer'])) s).map State.reading = some .pass)

/-- R110: a fold from a seed is the fold from 0 XOR a term of the seed and the length only, which is nonzero for a nonzero seed. -/
def Obligations.SeedEntersByItsOwnTerm : Prop :=
  ∀ (s : Byte) (bytes : List Byte),
    fold s bytes = fold s (List.replicate bytes.length 0x00) ^^^ fold 0x00 bytes ∧
    (s ≠ 0x00 → fold s (List.replicate bytes.length 0x00) ≠ 0x00)

/-- A schedule that meets the requester's duties for a frame as FrameDuties takes them (DESIGN CHOICE, log entry 13), with idle edges and NOPs wherever the requester likes, ends in the
frame's true verdict (R148, with R144 for the first frame after reset). -/
def Obligations.MetDutiesGiveTheTrueVerdict : Prop :=
  ∀ (s : State) (pre : List Byte) (trailer : Byte) (ps : List Sample), s.launched = true → FrameDuties s pre trailer ps →
    ∃ t, run ps.length (s.withPending (drive s.requester ps)) = .next t ∧
      t.vld = true ∧ (t.ok = true ↔ fold 0x00 pre = trailer)

/-! ### The assembler -/

/-- A command's line assembles to its word, whatever the case of its mnemonic and whatever comment follows (R68). -/
def Obligations.LinesAssembleToTheirWords : Prop :=
  ∀ (i : Instr) (mnemonic comment : List Char), mnemonic.map upperCase = mnemonicText i →
    assembleLine (mnemonic ++ operandText i) = .ok (some (encode i)) ∧
    assembleLine (mnemonic ++ operandText i ++ ';' :: comment) = .ok (some (encode i))
end

