-- ==== Sys2Proof/Laws/Decode.lean ====
section
/-! SUPPORT. The two fields of an encoded command, and decoding by the operation select. -/

namespace Sys2Proof

/-- The word `{op, d}` as a number (R61). -/
theorem toNat_append_fields (op : BitVec 2) (d : Byte) : (op ++ d : Word).toNat = op.toNat * 256 + d.toNat := by
  have h : (op ++ d).toNat = op.toNat <<< 8 ||| d.toNat := BitVec.toNat_append op d
  rw [← Nat.shiftLeft_add_eq_or_of_lt d.isLt, Nat.shiftLeft_eq] at h
  exact h

theorem opField_toNat (w : Word) : (opField w).toNat = w.toNat / 256 := by
  have := w.isLt
  simp only [opField, BitVec.extractLsb'_toNat, Nat.shiftRight_eq_div_pow]
  omega

theorem dField_toNat (w : Word) : (dField w).toNat = w.toNat % 256 := by
  simp only [dField, BitVec.extractLsb'_toNat, Nat.shiftRight_eq_div_pow]
  omega

@[simp] theorem opField_append (op : BitVec 2) (d : Byte) : opField (op ++ d : Word) = op := by
  have := op.isLt
  have := d.isLt
  apply BitVec.eq_of_toNat_eq
  rw [opField_toNat, toNat_append_fields]
  omega

@[simp] theorem dField_append (op : BitVec 2) (d : Byte) : dField (op ++ d : Word) = d := by
  have := d.isLt
  apply BitVec.eq_of_toNat_eq
  rw [dField_toNat, toNat_append_fields]
  omega

/-- A word is its two fields, `{op, d}` (R61). -/
theorem opField_append_dField (w : Word) : (opField w ++ dField w : Word) = w := by
  apply BitVec.eq_of_toNat_eq
  rw [toNat_append_fields, opField_toNat, dField_toNat]
  omega

theorem opField_encode (i : Instr) : opField (encode i) = i.op := opField_append i.op i.d

theorem dField_encode (i : Instr) : dField (encode i) = i.d := dField_append i.op i.d

/-- The four values of the operation select (R62). -/
theorem op_cases (op : BitVec 2) : op = 0b00 ∨ op = 0b01 ∨ op = 0b10 ∨ op = 0b11 := by
  revert op; decide

theorem decode_of_op_nop {w : Word} (h : opField w = 0b00) : decode w = .nop := by
  unfold decode; rw [h]; rfl

theorem decode_of_op_init {w : Word} (h : opField w = 0b01) : decode w = .init (dField w) := by
  unfold decode; rw [h]; rfl

theorem decode_of_op_update {w : Word} (h : opField w = 0b10) : decode w = .update (dField w) := by
  unfold decode; rw [h]; rfl

theorem decode_of_op_check {w : Word} (h : opField w = 0b11) : decode w = .check (dField w) := by
  unfold decode; rw [h]; rfl

end Sys2Proof
end

