-- ==== Sys2Proof/Laws/PerInstr.lean ====
section
/-! SUPPORT. What is said of every command as syntax, one lemma per constructor. -/

namespace Sys2Proof.Laws.OpcodeRow

/-- The command's word carries the command's own `op` and `d` fields, and the opcode table has exactly one row of its mnemonic,
whose match value is that `op` with `d` = 0 under the mask 0x300 (R61, R62). -/
def Statement (i : Instr) : Prop :=
  opField (encode i) = i.op ∧ dField (encode i) = i.d ∧
    opcodeTable.filter (fun r => r.mnemonic == i.mnemonic) = [⟨i.mnemonic, 0x300, i.op ++ 0#8⟩]

theorem nop : Statement .nop := ⟨opField_encode _, dField_encode _, by simp [opcodeTable, Instr.mnemonic, Instr.op]⟩

theorem init (seed : Byte) : Statement (.init seed) := ⟨opField_encode _, dField_encode _, by simp [opcodeTable, Instr.mnemonic, Instr.op]⟩

theorem update (byte : Byte) : Statement (.update byte) := ⟨opField_encode _, dField_encode _, by simp [opcodeTable, Instr.mnemonic, Instr.op]⟩

theorem check (expected : Byte) : Statement (.check expected) := ⟨opField_encode _, dField_encode _, by simp [opcodeTable, Instr.mnemonic, Instr.op]⟩

end Sys2Proof.Laws.OpcodeRow
end

