-- ==== Sys2Proof/Laws/State.lean ====
section
/-! SUPPORT. One lemma per field per update of State, so that no later proof unfolds a record update. -/

namespace Sys2Proof.Machine

variable (s : State)

@[simp] theorem State.setAcc_acc (v : Byte) : (s.setAcc v).acc = v := rfl
@[simp] theorem State.setAcc_vld (v : Byte) : (s.setAcc v).vld = s.vld := rfl
@[simp] theorem State.setAcc_ok (v : Byte) : (s.setAcc v).ok = s.ok := rfl
@[simp] theorem State.setAcc_pc (v : Byte) : (s.setAcc v).pc = s.pc := rfl
@[simp] theorem State.setAcc_launched (v : Byte) : (s.setAcc v).launched = s.launched := rfl
@[simp] theorem State.setAcc_requester (v : Byte) : (s.setAcc v).requester = s.requester := rfl
@[simp] theorem State.setAcc_pending (v : Byte) : (s.setAcc v).pending = s.pending := rfl
@[simp] theorem State.setAcc_powerUps (v : Byte) : (s.setAcc v).powerUps = s.powerUps := rfl

@[simp] theorem State.dropVerdict_acc : (s.dropVerdict).acc = s.acc := rfl
@[simp] theorem State.dropVerdict_vld : (s.dropVerdict).vld = false := rfl
@[simp] theorem State.dropVerdict_ok : (s.dropVerdict).ok = false := rfl
@[simp] theorem State.dropVerdict_pc : (s.dropVerdict).pc = s.pc := rfl
@[simp] theorem State.dropVerdict_launched : (s.dropVerdict).launched = s.launched := rfl
@[simp] theorem State.dropVerdict_requester : (s.dropVerdict).requester = s.requester := rfl
@[simp] theorem State.dropVerdict_pending : (s.dropVerdict).pending = s.pending := rfl
@[simp] theorem State.dropVerdict_powerUps : (s.dropVerdict).powerUps = s.powerUps := rfl

@[simp] theorem State.recordVerdict_acc (m : Bool) : (s.recordVerdict m).acc = s.acc := rfl
@[simp] theorem State.recordVerdict_vld (m : Bool) : (s.recordVerdict m).vld = true := rfl
@[simp] theorem State.recordVerdict_ok (m : Bool) : (s.recordVerdict m).ok = m := rfl
@[simp] theorem State.recordVerdict_pc (m : Bool) : (s.recordVerdict m).pc = s.pc := rfl
@[simp] theorem State.recordVerdict_launched (m : Bool) : (s.recordVerdict m).launched = s.launched := rfl
@[simp] theorem State.recordVerdict_requester (m : Bool) : (s.recordVerdict m).requester = s.requester := rfl
@[simp] theorem State.recordVerdict_pending (m : Bool) : (s.recordVerdict m).pending = s.pending := rfl
@[simp] theorem State.recordVerdict_powerUps (m : Bool) : (s.recordVerdict m).powerUps = s.powerUps := rfl

@[simp] theorem State.advance_acc : (s.advance).acc = s.acc := rfl
@[simp] theorem State.advance_vld : (s.advance).vld = s.vld := rfl
@[simp] theorem State.advance_ok : (s.advance).ok = s.ok := rfl
@[simp] theorem State.advance_pc : (s.advance).pc = s.pc + 1 := rfl
@[simp] theorem State.advance_launched : (s.advance).launched = s.launched := rfl
@[simp] theorem State.advance_requester : (s.advance).requester = s.requester := rfl
@[simp] theorem State.advance_pending : (s.advance).pending = s.pending := rfl
@[simp] theorem State.advance_powerUps : (s.advance).powerUps = s.powerUps := rfl

@[simp] theorem State.resetBlock_acc : (s.resetBlock).acc = 0x00 := rfl
@[simp] theorem State.resetBlock_vld : (s.resetBlock).vld = false := rfl
@[simp] theorem State.resetBlock_ok : (s.resetBlock).ok = false := rfl
@[simp] theorem State.resetBlock_pc : (s.resetBlock).pc = s.pc := rfl
@[simp] theorem State.resetBlock_launched : (s.resetBlock).launched = true := rfl
@[simp] theorem State.resetBlock_requester : (s.resetBlock).requester = s.requester := rfl
@[simp] theorem State.resetBlock_pending : (s.resetBlock).pending = s.pending := rfl
@[simp] theorem State.resetBlock_powerUps : (s.resetBlock).powerUps = s.powerUps := rfl

@[simp] theorem State.withPending_acc (es : List Event) : (s.withPending es).acc = s.acc := rfl
@[simp] theorem State.withPending_vld (es : List Event) : (s.withPending es).vld = s.vld := rfl
@[simp] theorem State.withPending_ok (es : List Event) : (s.withPending es).ok = s.ok := rfl
@[simp] theorem State.withPending_pc (es : List Event) : (s.withPending es).pc = s.pc := rfl
@[simp] theorem State.withPending_launched (es : List Event) : (s.withPending es).launched = s.launched := rfl
@[simp] theorem State.withPending_requester (es : List Event) : (s.withPending es).requester = s.requester := rfl
@[simp] theorem State.withPending_pending (es : List Event) : (s.withPending es).pending = es := rfl
@[simp] theorem State.withPending_powerUps (es : List Event) : (s.withPending es).powerUps = s.powerUps := rfl

@[simp] theorem State.powerUp_acc : (s.powerUp).acc = Config.powerUpAcc s.powerUps := rfl
@[simp] theorem State.powerUp_vld : (s.powerUp).vld = Config.powerUpVld s.powerUps := rfl
@[simp] theorem State.powerUp_ok : (s.powerUp).ok = Config.powerUpOk s.powerUps := rfl
@[simp] theorem State.powerUp_pc : (s.powerUp).pc = s.pc := rfl
@[simp] theorem State.powerUp_launched : (s.powerUp).launched = false := rfl
@[simp] theorem State.powerUp_requester : (s.powerUp).requester = s.requester := rfl
@[simp] theorem State.powerUp_pending : (s.powerUp).pending = s.pending := rfl
@[simp] theorem State.powerUp_powerUps : (s.powerUp).powerUps = s.powerUps + 1 := rfl

@[simp] theorem State.withPending_withPending (es es' : List Event) : (s.withPending es).withPending es' = s.withPending es' := rfl
@[simp] theorem State.withPending_self : s.withPending s.pending = s := rfl
@[simp] theorem State.outputs_crcQ : s.outputs.crcQ = s.acc := rfl
@[simp] theorem State.outputs_vld : s.outputs.vld = s.vld := rfl
@[simp] theorem State.outputs_ok : s.outputs.ok = s.ok := rfl

end Sys2Proof.Machine
end

