-- ==== Sys2Proof/Laws/Steps.lean ====
section
/-! SUPPORT. What each shared operation can do, said once: the meanings, the cycle function, an edge, a step, a run. -/

namespace Sys2Proof.Machine

/-- Everything a command can do to the state it is executed in. -/
theorem exec_next {i : Instr} {s t : State} (h : exec i s = .next t) :
    (i = .nop ∧ t = s.advance) ∨
    (∃ d, i = .init d ∧ t = ((s.setAcc d).dropVerdict).advance) ∨
    (∃ d, i = .update d ∧ t = ((s.setAcc (T (s.acc ^^^ d))).dropVerdict).advance) ∨
    (∃ d, i = .check d ∧ t = (s.recordVerdict (s.acc == d)).advance) := by
  cases i with
  | nop => exact .inl ⟨rfl, by cases h; rfl⟩
  | init d => exact .inr (.inl ⟨d, rfl, by cases h; rfl⟩)
  | update d => exact .inr (.inr (.inl ⟨d, rfl, by cases h; rfl⟩))
  | check d => exact .inr (.inr (.inr ⟨d, rfl, by cases h; rfl⟩))

@[simp] theorem sample_ports (r : Nat) (p : Sample) :
    (Inputs.mk r (some p.rst) (some p.cmdValid) (some p.cmd)).sample = some p := rfl

/-- An edge is a sample driven by its requester exactly where all its ports are defined. -/
theorem edge_of_sample {i : Inputs} {p : Sample} (h : i.sample = some p) :
    Event.edge i = p.drivenBy i.driver := by
  obtain ⟨d, _ | a, _ | b, _ | c⟩ := i <;> simp [Inputs.sample] at h
  subst h; rfl

/-- An edge of the block's own requester that resets it or finds it launched is the cycle function. -/
theorem onEdge_cycle {i : Inputs} {p : Sample} {s : State} (hp : i.sample = some p)
    (hr : i.driver = s.requester) (hl : p.rst = true ∨ s.launched = true) : onEdge i s = cycle p s := by
  have : (!p.rst && !s.launched) = false := by rcases hl with h | h <;> simp [h]
  simp [onEdge, hp, hr, this]

/-- A step at such an edge. -/
theorem step_drivenBy {p : Sample} {s : State} (rest : List Event) (hl : p.rst = true ∨ s.launched = true) :
    step (s.withPending (p.drivenBy s.requester :: rest)) = cycle p (s.withPending rest) :=
  onEdge_cycle (i := ⟨s.requester, some p.rst, some p.cmdValid, some p.cmd⟩) (sample_ports _ p) rfl hl

/-- Where an edge gives a next state, its ports are defined, its requester is the block's own, and the block is launched. -/
theorem onEdge_next {i : Inputs} {s t : State} (h : onEdge i s = .next t) :
    ∃ p, i.sample = some p ∧ i.driver = s.requester ∧ (p.rst = true ∨ s.launched = true) ∧ cycle p s = .next t := by
  unfold onEdge at h
  split at h
  · cases h
  · rename_i p hp
    split at h
    · cases h
    · split at h
      · cases h
      · rename_i h1 h2
        refine ⟨p, hp, by simpa using h1, ?_, h⟩
        cases hr : p.rst
        · cases hl : s.launched
          · simp [hr, hl] at h2
          · exact .inr rfl
        · exact .inl rfl

/-- Where the cycle function gives a next state: a reset, an idle edge, or an accepted command. -/
theorem cycle_next {p : Sample} {s t : State} (h : cycle p s = .next t) :
    (p.rst = true ∧ t = s.resetBlock) ∨
    (p.rst = false ∧ p.cmdValid = false ∧ t = s) ∨
    (p.rst = false ∧ p.cmdValid = true ∧ exec (decode p.cmd) s = .next t) := by
  unfold cycle at h
  split at h
  · rename_i hr; exact .inl ⟨hr, by cases h; rfl⟩
  · rename_i hr
    split at h
    · rename_i hv; exact .inr (.inr ⟨by simpa using hr, hv, h⟩)
    · rename_i hv; exact .inr (.inl ⟨by simpa using hr, by simpa using hv, by cases h; rfl⟩)

/-- Everything a step that gives a next state can be: no event, a power-up, or an edge of the block's own requester. -/
theorem step_next {s t : State} (h : step s = .next t) :
    (s.pending = [] ∧ t = s) ∨
    (∃ rest, s.pending = .powerCycle :: rest ∧ t = (s.withPending rest).powerUp) ∨
    (∃ p rest, s.pending = p.drivenBy s.requester :: rest ∧ (p.rst = true ∨ s.launched = true) ∧
      cycle p (s.withPending rest) = .next t) := by
  unfold step nextEvent at h
  split at h
  · rename_i hp; exact .inl ⟨hp, by cases h; rfl⟩
  · rename_i e rest hp
    cases e with
    | powerCycle => exact .inr (.inl ⟨rest, hp, by cases h; rfl⟩)
    | edge i =>
      obtain ⟨p, hs, hd, hl, hc⟩ := onEdge_next h
      refine .inr (.inr ⟨p, rest, ?_, hl, hc⟩)
      rw [hp, edge_of_sample hs]
      exact congrArg (fun r => p.drivenBy r :: rest) hd

@[simp] theorem run_zero (s : State) : run 0 s = .next s := rfl

/-- A run whose first step gives a next state goes on from there. -/
theorem core_run_next {M : Host.Core} {s u : M.State} (k : Nat) (h : M.step s = .next u) :
    M.run (k + 1) s = M.run k u := by rw [Host.Core.run, h]

/-- A run whose first step faults. -/
theorem core_run_fault {M : Host.Core} {s : M.State} {r : M.Fault} (k : Nat) (h : M.step s = .fault r) :
    M.run (k + 1) s = .fault r := by rw [Host.Core.run, h]

/-- A run whose first step is refused. -/
theorem core_run_refused {M : Host.Core} {s : M.State} {r : M.Refusal} (k : Nat) (h : M.step s = .refused r) :
    M.run (k + 1) s = .refused r := by rw [Host.Core.run, h]

theorem run_succ_of_step {s t : State} (k : Nat) (h : step s = .next t) : run (k + 1) s = run k t :=
  core_run_next (M := Sys2Proof.core) k h

theorem run_succ_of_refused {s : State} {r : Refusal} (k : Nat) (h : step s = .refused r) :
    run (k + 1) s = .refused r := core_run_refused (M := Sys2Proof.core) k h

/-- A run that gives a next state has a first step that does. -/
theorem run_succ_next {s t : State} {k : Nat} (h : run (k + 1) s = .next t) :
    ∃ u, step s = .next u ∧ run k u = .next t := by
  cases hs : step s with
  | next u => exact ⟨u, rfl, by rw [← run_succ_of_step k hs]; exact h⟩
  | fault f => cases f
  | refused r => rw [run_succ_of_refused k hs] at h; cases h

/-- A run of one part and then of the rest. -/
theorem run_add_of_run {s t : State} {m : Nat} (n : Nat) (h : run m s = .next t) : run (m + n) s = run n t := by
  induction m generalizing s with
  | zero => cases h; simp
  | succ m ih =>
    obtain ⟨u, hu, h'⟩ := run_succ_next h
    rw [show m + 1 + n = (m + n) + 1 by omega, run_succ_of_step _ hu]
    exact ih h'

end Sys2Proof.Machine
end

