-- ==== Sys2Proof/Laws/Runs.lean ====
section
/-! SUPPORT. Runs over defined edges of a launched block: each is one application of a total function on states. -/

namespace Sys2Proof.Machine

/-- What an accepted command leaves. -/
def commandEffect (i : Instr) (s : State) : State :=
  match i with
  | .nop => s.advance
  | .init d => ((s.setAcc d).dropVerdict).advance
  | .update d => ((s.setAcc (T (s.acc ^^^ d))).dropVerdict).advance
  | .check d => (s.recordVerdict (s.acc == d)).advance

theorem exec_eq (i : Instr) (s : State) : exec i s = .next (commandEffect i s) := by cases i <;> rfl

/-- What a defined edge leaves. -/
def edgeEffect (p : Sample) (s : State) : State :=
  match p.accepted with
  | some i => commandEffect i s
  | none => if p.rst then s.resetBlock else s

theorem cycle_eq (p : Sample) (s : State) : cycle p s = .next (edgeEffect p s) := by
  unfold cycle edgeEffect Sample.accepted
  cases p.rst <;> cases p.cmdValid <;> simp [exec_eq]

@[simp] theorem commandEffect_launched (i : Instr) (s : State) : (commandEffect i s).launched = s.launched := by
  cases i <;> rfl

@[simp] theorem commandEffect_requester (i : Instr) (s : State) : (commandEffect i s).requester = s.requester := by
  cases i <;> rfl

@[simp] theorem commandEffect_pending (i : Instr) (s : State) : (commandEffect i s).pending = s.pending := by
  cases i <;> rfl

@[simp] theorem commandEffect_pc (i : Instr) (s : State) : (commandEffect i s).pc = s.pc + 1 := by
  cases i <;> rfl

/-- The outside world's events do not enter a command's effect. -/
theorem commandEffect_withPending (i : Instr) (s : State) (es : List Event) :
    commandEffect i (s.withPending es) = (commandEffect i s).withPending es := by
  cases i <;> rfl

theorem edgeEffect_withPending (p : Sample) (s : State) (es : List Event) :
    edgeEffect p (s.withPending es) = (edgeEffect p s).withPending es := by
  unfold edgeEffect
  split
  · exact commandEffect_withPending _ _ _
  · split <;> rfl

theorem edgeEffect_launched {p : Sample} {s : State} (h : s.launched = true) : (edgeEffect p s).launched = true := by
  unfold edgeEffect
  split
  · simp [h]
  · split <;> simp [h]

@[simp] theorem edgeEffect_requester (p : Sample) (s : State) : (edgeEffect p s).requester = s.requester := by
  unfold edgeEffect
  split
  · simp
  · split <;> simp

/-- What a sequence of defined edges leaves. -/
def edgesEffect (ps : List Sample) (s : State) : State := ps.foldl (fun s p => edgeEffect p s) s

@[simp] theorem edgesEffect_nil (s : State) : edgesEffect [] s = s := rfl

@[simp] theorem edgesEffect_cons (p : Sample) (ps : List Sample) (s : State) :
    edgesEffect (p :: ps) s = edgesEffect ps (edgeEffect p s) := rfl

theorem edgesEffect_append (ps qs : List Sample) (s : State) :
    edgesEffect (ps ++ qs) s = edgesEffect qs (edgesEffect ps s) := by
  simp [edgesEffect]

theorem edgesEffect_launched {ps : List Sample} {s : State} (h : s.launched = true) :
    (edgesEffect ps s).launched = true := by
  induction ps generalizing s with
  | nil => exact h
  | cons p ps ih => exact ih (edgeEffect_launched h)

@[simp] theorem edgesEffect_requester (ps : List Sample) (s : State) : (edgesEffect ps s).requester = s.requester := by
  induction ps generalizing s with
  | nil => rfl
  | cons p ps ih => rw [edgesEffect_cons, ih, edgeEffect_requester]

/-- A run over defined edges that a launched block's requester drives. -/
theorem run_drive {s : State} (ps : List Sample) (rest : List Event) (h : s.launched = true) :
    run ps.length (s.withPending (drive s.requester ps ++ rest)) = .next ((edgesEffect ps s).withPending rest) := by
  induction ps generalizing s with
  | nil => rfl
  | cons p ps ih =>
    have hs := step_drivenBy (p := p) (drive s.requester ps ++ rest) (.inr h)
    rw [cycle_eq, edgeEffect_withPending] at hs
    have hi := ih (edgeEffect_launched (p := p) h)
    rw [edgeEffect_requester] at hi
    exact (run_succ_of_step _ hs).trans hi

end Sys2Proof.Machine
end

