-- ==== Sys2Proof/Tests/Slice0.lean ====
section
/-! SUPPORT. Tests: words written out from the spec's encodings, its test vectors one step at a time, the smoke test of
WellFormed, and for every statement with hypotheses a witness that meets them. -/

namespace Sys2Proof.Tests

open Sys2Proof.Machine

/-- A launched block with the given registers, as the vectors of 95_test_vectors.md write them. -/
def block (acc : Byte) (vld ok : Bool) : State := { State.reset with acc := acc, vld := vld, ok := ok }

/-- What a step leaves in the three registers; none where it stops. -/
def registers : Host.Outcome State Fault Refusal → Option (Byte × Bool × Bool)
  | .next t => some (t.acc, t.vld, t.ok)
  | .fault _ => none
  | .refused _ => none

/-- The command index after a step; none where it stops. -/
def index : Host.Outcome State Fault Refusal → Option Nat
  | .next t => some t.pc
  | .fault _ => none
  | .refused _ => none

/-- Why a step is refused; none where it is not. -/
def stop : Host.Outcome State Fault Refusal → Option Refusal
  | .next _ => none
  | .fault _ => none
  | .refused r => some r

/-- One step at an edge with the given levels. -/
def edge (s : State) (rst cmdValid : Bool) (cmd : Word) : Host.Outcome State Fault Refusal :=
  step (s.withPending [Sample.drivenBy ⟨rst, cmdValid, cmd⟩ s.requester])

/-- A block that has not been reset since power-up. -/
def unlaunched : State := { State.reset with launched := false }

/-! ### Decoding: the pattern `oodddddddd` of R61 with the `op` of R62, written out; the last four are R68's examples -/

theorem test_decode_nop : decode 0b0010100101 = .nop := by decide
theorem test_decode_init : decode 0b0111111111 = .init 0xFF := by decide
theorem test_decode_update : decode 0b1001010101 = .update 0x55 := by decide
theorem test_decode_check : decode 0b1100111000 = .check 0x38 := by decide
theorem test_encode_nop : encode .nop = 0x000 := by decide
theorem test_encode_init : encode (.init 0x00) = 0x100 := by decide
theorem test_encode_update : encode (.update 0x28) = 0x228 := by decide
theorem test_encode_check : encode (.check 0x39) = 0x339 := by decide
theorem test_decode_eleven_bits : decodeTableWord 16 0x400 = none := by decide
theorem test_decode_table_word : decodeTableWord 16 0x228 = some (.update 0x28) := by decide

/-! ### WellFormed: no term of `Instr` is ill formed; a frame of another length is -/

theorem test_wf_rom_frame : (Pseudo.vrom [0x28, 0xAA, 0xBB, 0xCC, 0xDD, 0xEE, 0x00] 0x39).wf = true := by decide
theorem test_wf_refuses_long_rom_frame :
    (Pseudo.vrom [0x28, 0xAA, 0xBB, 0xCC, 0xDD, 0xEE, 0x00, 0x00] 0x22).wf = false := by decide
theorem test_wf_refuses_short_scratchpad :
    (Pseudo.vsp [0x50, 0x05, 0x4B, 0x46, 0x7F, 0xFF, 0x0C] 0x10).wf = false := by decide

/-! ### The table: the spot values of R41 and the fixed point 0xF7 of GK2 -/

theorem test_table_spots : T 0x00 = 0x00 ∧ T 0x01 = 0x5E ∧ T 0x80 = 0x8C ∧ T 0xFF = 0x35 ∧ T 0xF7 = 0xF7 := by decide

/-! ### One step of each command: vectors V-N2, V-I4, V-U8, V-U15 with V-U9's byte, V-C4, V-C5 -/

theorem test_nop_keeps_verdict : registers (edge (block 0x39 true true) false true 0x0A5) = some (0x39, true, true) := by decide
theorem test_init_clears_verdict : registers (edge (block 0x00 true true) false true 0x100) = some (0x00, false, false) := by decide
theorem test_init_loads_seed : registers (edge (block 0x5A true true) false true 0x1FF) = some (0xFF, false, false) := by decide
theorem test_update_reads_table : registers (edge (block 0x12 false false) false true 0x234) = some (0xFE, false, false) := by decide
theorem test_update_clears_verdict : registers (edge (block 0x80 true true) false true 0x200) = some (0x8C, false, false) := by decide
theorem test_check_overwrites_pass : registers (edge (block 0x39 true true) false true 0x300) = some (0x39, true, false) := by decide
theorem test_check_matches : registers (edge (block 0x5F true false) false true 0x35F) = some (0x5F, true, true) := by decide

/-! ### Reset, idle and what is refused: vectors V-R2, V-R3; R30, R31, R131 -/

theorem test_reset_beats_command :
    registers (edge (block 0xAF false false) true true 0x2B8) = some (0x00, false, false) ∧
    index (edge (block 0xAF false false) true true 0x2B8) = some 0 := by decide
theorem test_idle_ignores_word :
    registers (edge (block 0x39 true true) false false 0x3FF) = some (0x39, true, true) ∧
    index (edge (block 0x39 true true) false false 0x3FF) = some 0 := by decide
theorem test_accepted_command_advances : index (edge (block 0x39 true true) false true 0x000) = some 1 := by decide
theorem test_unreset_refused : stop (edge unlaunched false false 0x000) = some .unreset := by decide
theorem test_unreset_resets : registers (edge unlaunched true false 0x000) = some (0x00, false, false) := by decide
theorem test_undefined_reset_refused :
    stop (step (State.reset.withPending [.edge ⟨0, none, some false, some 0x000⟩])) = some .undefinedInput := by decide
theorem test_second_requester_refused :
    stop (step (State.reset.withPending [Sample.drivenBy ⟨false, false, 0x000⟩ 1])) = some .secondRequester := by decide
theorem test_power_up_needs_reset :
    stop (step { State.reset.powerUp with pending := [Sample.drivenBy ⟨false, true, 0x000⟩ 0] }) = some .unreset := rfl
theorem test_placed_word_runs : registers (step (State.reset.withFetchWord 16 0x201)) = some (0x5E, false, false) := by decide

/-! ### Folds: vectors V-F2, V-ORD, V-W2a and V-GK1 -/

theorem test_fold_nonzero_seed : fold 0x5A [0x01, 0x02, 0x03] = 0xC9 := by decide
theorem test_fold_order : fold 0x00 [0x01, 0x02] = 0x78 ∧ fold 0x00 [0x02, 0x01] = 0xCF := by decide
theorem test_fold_source_example : fold 0x00 [0x28, 0xAA, 0xBB, 0xCC, 0xDD, 0xEE, 0x00, 0x00] = 0x22 := by decide
theorem test_fold_check_value : fold 0x00 [0x31, 0x32, 0x33, 0x34, 0x35, 0x36, 0x37, 0x38, 0x39] = 0xA1 := by decide

/-! ### The assembler: R68's rules on cases, literals and comments -/

/-- The word of a line; none where it is in error or holds no command. -/
def wordOf (line : List Char) : Option Word :=
  match assembleLine line with
  | .ok w => w
  | .error _ => none

/-- Why a line does not assemble. -/
def errorOf (line : List Char) : Option AsmError :=
  match assembleLine line with
  | .ok _ => none
  | .error e => some e

theorem test_assemble_lower_case : wordOf "update 0x28 ; first byte".toList = some 0x228 := by decide
theorem test_assemble_decimal : wordOf "CHECK 57".toList = some 0x339 := by decide
theorem test_assemble_out_of_range : errorOf "INIT 256".toList = some .badImmediate := by decide
theorem test_assemble_needs_operand : errorOf "UPDATE ; 0x28".toList = some .missingOperand := by decide
theorem test_assemble_nop_takes_none : errorOf "NOP 0x00".toList = some .unexpectedOperand := by decide

/-! ### Witnesses: every statement's hypotheses are met, each clause at a boundary -/

theorem witness_WordRangeSelectsCommand :
    (0x0FF : Word).toNat ≤ 0x0FF ∧ (0x100 ≤ (0x100 : Word).toNat ∧ (0x1FF : Word).toNat ≤ 0x1FF) ∧
    (0x200 ≤ (0x200 : Word).toNat ∧ (0x2FF : Word).toNat ≤ 0x2FF) ∧ 0x300 ≤ (0x300 : Word).toNat := by decide

theorem witness_DecodeOfEncodeIsTheCommand : (Instr.update 0xFF).wf = true := by decide

theorem witness_EncodeOfDecodeIsTheWord : opField 0x100 ≠ 0b00 ∧ opField 0x0FF = 0b00 := by decide

theorem witness_OnlyTenBitNumbersDecode : 1023 < 1024 ∧ 1024 ≤ 1024 := by decide

theorem witness_UpdateIsBitSerial : State.reset.acc = 0x00 := by decide

theorem witness_MismatchIsADataResult : (block 0x39 false false).acc ≠ 0x38 := by decide

/-- Also of IdleEdgeChangesNothing, BackToBackCommandsNeverStall (first clause), BlockLeavesTheFold, RoundTripValidationVerdict
and ValidationFormsAgree: their one hypothesis is a launched block. -/
theorem witness_StepRunsTheDecodedCommand : State.reset.launched = true := by decide

theorem witness_EdgeIsTheCycleFunction :
    ((Sample.mk true false 0x000).rst = true ∨ unlaunched.launched = true) ∧
    ((Sample.mk false true 0x3FF).rst = true ∨ State.reset.launched = true) ∧
    step (unlaunched.withPending [.edge ⟨0, some false, some false, some 0x000⟩]) = .refused .unreset ∧
    step (State.reset.withPending [.edge ⟨0, some false, some true, none⟩]) = .refused .undefinedInput ∧
    step (State.reset.withPending [.edge ⟨1, some true, some true, some 0x000⟩]) = .refused .secondRequester :=
  ⟨.inl rfl, .inr rfl, rfl, rfl, rfl⟩

theorem witness_RunsOutsideTheContractAreRefused :
    (unlaunched.launched = false ∧ (Sample.mk false true 0x100).rst = false) ∧
    (Inputs.mk 0 none (some true) (some 0x100)).rst = none ∧
    (Inputs.mk 0 (some false) none (some 0x100)).cmdValid = none ∧
    (Inputs.mk 0 (some false) (some false) none).cmd = none := by decide

theorem witness_SecondRequesterIsRefused : 1 ≠ State.reset.requester := by decide

theorem witness_PowerUpNeedsAReset : (Sample.mk false false 0x000).rst = false ∧ (Sample.mk true false 0x000).rst = true := by
  decide

theorem witness_StepKeepsPassOnlyWithVerdict :
    VerdictInv (block 0x39 true true) ∧
    step ((block 0x39 true true).withPending [(presenting 0x300).drivenBy 0]) = .next { block 0x39 true false with pc := 1 } :=
  ⟨by decide, rfl⟩

/-- Also of OnlyResetInitUpdateChangeTheAccumulator: the step changes `acc`. -/
theorem witness_StepKeepsTheListLength :
    step ((block 0x00 false false).withPending [(presenting 0x1FF).drivenBy 0]) = .next { block 0xFF false false with pc := 1 } ∧
    (block 0xFF false false).acc ≠ (block 0x00 false false).acc := ⟨rfl, by decide⟩

theorem witness_CommandIndexCountsAcceptedCommands :
    run 1 (State.reset.withPending [(presenting 0x000).drivenBy 0]) = .next { State.reset with pc := 1 } := rfl

theorem witness_OnlyCheckRaisesTheVerdict :
    (step ((block 0x39 false false).withPending [(presenting 0x339).drivenBy 0]) = .next { block 0x39 true true with pc := 1 } ∧
      (block 0x39 false false).vld = false ∧ (block 0x39 true true).vld = true) ∧
    (step ((block 0x39 true true).withPending [(presenting 0x139).drivenBy 0]) = .next { block 0x39 false false with pc := 1 }) :=
  ⟨⟨rfl, rfl, rfl⟩, rfl⟩

theorem witness_VldTellsACheckSinceTheLastWrite :
    (block 0x39 false false).launched = true ∧
    run 2 ((block 0x39 false false).withPending (drive 0 [presenting 0x339, presenting 0x000])) =
      .next { block 0x39 true true with pc := 2 } := ⟨rfl, rfl⟩

theorem witness_OkIsTheMostRecentComparison :
    (block 0x39 false false).launched = true ∧
    run 2 ((block 0x39 false false).withPending (drive 0 [presenting 0x338, presenting 0x000])) =
      .next { block 0x39 true false with pc := 2 } ∧
    (presenting 0x338).accepted = some (.check 0x38) ∧ (presenting 0x000).transparent = true ∧
    VerdictInv (block 0x39 true true) ∧
    run 1 ((block 0x39 true true).withPending (drive 0 [presenting 0x139])) = .next { block 0x39 false false with pc := 1 } :=
  ⟨rfl, rfl, by decide, by decide, by decide, rfl⟩

theorem witness_OutputsDependOnRegistersAndInputsOnly :
    (block 0x39 true true).outputs = State.outputs { block 0x39 true true with pc := 5 } ∧
    (block 0x39 true true).launched = State.launched { block 0x39 true true with pc := 5 } ∧
    (block 0x39 true true).requester = State.requester { block 0x39 true true with pc := 5 } ∧
    Event.powerCycle ∉ [(presenting 0x339).drivenBy 0] ∧
    run 1 ((block 0x39 true true).withPending [(presenting 0x339).drivenBy 0]) = .next { block 0x39 true true with pc := 1 } ∧
    run 1 ((block 0x39 true true).withPending [(presenting 0x339).drivenBy 1]) = .refused .secondRequester :=
  ⟨rfl, rfl, rfl, by decide, rfl, rfl⟩

theorem witness_BackToBackCommandsNeverStall :
    exec (.init 0xFF) (State.reset.withPending (present State.reset.requester [.check 0xFF])) =
      .next { block 0xFF false false with pc := 1, pending := present 0 [.check 0xFF] } := rfl

theorem witness_BlocksShareNoState :
    stepUnit [State.reset.withPending [(presenting 0x1FF).drivenBy 0], block 0x39 true true] ⟨0, by decide⟩ =
      .next [{ block 0xFF false false with pc := 1 }, block 0x39 true true] := rfl

theorem witness_InterleavedEventsAndTheFold :
    (∀ p ∈ [presenting 0x228, presenting 0x300, Sample.mk false false 0x3FF, presenting 0x000, presenting 0x2AA],
      p.keepsFold = true) ∧
    (presenting 0x2AA).accepted = some (.update 0xAA) ∧
    (presenting 0x15A).accepted = some (.init 0x5A) ∧ (Sample.mk true true 0x2B8).rst = true ∧
    (∀ p ∈ [presenting 0x228], ∀ d, p.accepted ≠ some (.check d)) :=
  ⟨by decide, by decide, by decide, by decide, by
    intro p hp d
    rw [List.mem_singleton.mp hp, show (presenting 0x228).accepted = some (.update 0x28) by decide]
    simp⟩

theorem witness_RomValidationVerdict :
    State.reset.launched = true ∧ (Pseudo.vrom [0x02, 0x1C, 0xB8, 0x01, 0x00, 0x00, 0x00] 0xA2).wf = true := by decide

theorem witness_ScratchpadValidationVerdict :
    State.reset.launched = true ∧ (Pseudo.vsp [0x50, 0x05, 0x4B, 0x46, 0x7F, 0xFF, 0x0C, 0x10] 0x1C).wf = true := by decide

theorem witness_FoldIsLinear : [0x01, 0x02].length = ([0x02, 0x01] : List Byte).length := by decide

theorem witness_SingleByteErrorsAreDetected :
    DifferInOneByte (([0x28, 0xAA] : List Byte) ++ [0x39]) ([0x29, 0xAA] ++ [0x39]) ∧
    DifferInOneByte (([0x28, 0xAA] : List Byte) ++ [0x39]) ([0x28, 0xAA] ++ [0x38]) :=
  ⟨⟨[], [0xAA, 0x39], 0x28, 0x29, by decide, rfl, rfl⟩, ⟨[0x28, 0xAA], [], 0x39, 0x38, by decide, rfl, rfl⟩⟩

theorem witness_SeedEntersByItsOwnTerm : (0x5A : Byte) ≠ 0x00 := by decide

theorem witness_MetDutiesGiveTheTrueVerdict :
    State.reset.launched = true ∧
    FrameDuties State.reset [0x28] 0xE1 [presenting 0x100, presenting 0x228, presenting 0x0FF, presenting 0x3E1] ∧
    FrameDuties State.reset [0x28] 0xE1 [presenting 0x100, presenting 0x228, presenting 0x2E1, presenting 0x300] ∧
    FrameDuties State.reset [0x28] 0xE1 [presenting 0x228, Sample.mk false false 0x3FF, presenting 0x3E1] ∧
    FrameDuties State.reset [0x28] 0xE1 [presenting 0x228, presenting 0x2E1, presenting 0x300] :=
  ⟨rfl, ⟨by decide, .inl (by decide)⟩, ⟨by decide, .inr (.inl (by decide))⟩,
    ⟨by decide, .inr (.inr ⟨by decide, .inl (by decide)⟩)⟩, ⟨by decide, .inr (.inr ⟨by decide, .inr (by decide)⟩)⟩⟩

theorem witness_LinesAssembleToTheirWords : ['U', 'p', 'd', 'a', 't', 'e'].map upperCase = mnemonicText (.update 0x28) := by
  decide

end Sys2Proof.Tests
end

section
/-! PROOFS. What a defined edge, and a step, can do to the state, and what each of the two leaves of the verdict, the
index and the outputs. The statements of 10_state.md are short uses of these. -/

namespace Sys2Proof.Machine

/-- Everything a defined edge can do: reset the block, nothing at all, or an accepted command's effect (R66, R86, R142). -/
theorem edgeEffect_cases (p : Sample) (s : State) :
    (p.rst = true ∧ p.accepted = none ∧ edgeEffect p s = s.resetBlock) ∨
    (p.rst = false ∧ p.accepted = none ∧ edgeEffect p s = s) ∨
    (∃ i, p.accepted = some i ∧ edgeEffect p s = commandEffect i s) := by
  unfold edgeEffect
  cases ha : p.accepted with
  | some i => exact .inr (.inr ⟨i, rfl, rfl⟩)
  | none =>
    cases hr : p.rst with
    | true => exact .inl ⟨rfl, rfl, rfl⟩
    | false => exact .inr (.inl ⟨rfl, rfl, rfl⟩)

/-- An edge that accepts a command has that command's effect. -/
theorem edgeEffect_of_accepted {p : Sample} {i : Instr} (h : p.accepted = some i) (s : State) :
    edgeEffect p s = commandEffect i s := by simp [edgeEffect, h]

/-- Everything a step that gives a next state can be, with an edge's result as its effect. -/
theorem step_next_edgeEffect {s t : State} (h : step s = .next t) :
    (s.pending = [] ∧ t = s) ∨
    (∃ rest, s.pending = .powerCycle :: rest ∧ t = s.powerUp.withPending rest) ∨
    (∃ p rest, s.pending = p.drivenBy s.requester :: rest ∧ t = (edgeEffect p s).withPending rest) := by
  rcases step_next h with hnone | ⟨rest, hp, ht⟩ | ⟨p, rest, hp, -, hc⟩
  · exact .inl hnone
  · exact .inr (.inl ⟨rest, hp, ht⟩)
  · rw [cycle_eq, edgeEffect_withPending] at hc
    cases hc
    exact .inr (.inr ⟨p, rest, hp, rfl⟩)

/-- Where a run over defined edges that a launched block's requester drives ends, with nothing scheduled after them. -/
theorem eq_of_run_drive {s t : State} {ps : List Sample} (hl : s.launched = true)
    (h : run ps.length (s.withPending (drive s.requester ps)) = .next t) :
    t = (edgesEffect ps s).withPending [] := by
  have hrun := run_drive ps [] hl
  rw [List.append_nil, h] at hrun
  exact Host.Outcome.next.inj hrun

/-! ### The command index (R25) -/

/-- A defined edge advances the index by the number of commands it accepts, one or none. -/
theorem edgeEffect_pc (p : Sample) (s : State) : (edgeEffect p s).pc = s.pc + p.accepted.toList.length := by
  rcases edgeEffect_cases p s with ⟨-, ha, he⟩ | ⟨-, ha, he⟩ | ⟨i, ha, he⟩ <;> simp [ha, he]

@[simp] theorem drivenBy_accepted (p : Sample) (r : Nat) : (p.drivenBy r).accepted = p.accepted := rfl

/-- A step takes the first event off the schedule and advances the index by the number of commands that event gets accepted. -/
theorem step_pending_pc {s t : State} {e : Event} {rest : List Event} (h : step (s.withPending (e :: rest)) = .next t) :
    t.pending = rest ∧ t.pc = s.pc + e.accepted.toList.length := by
  rcases step_next_edgeEffect h with ⟨hp, -⟩ | ⟨rest', hp, rfl⟩ | ⟨p, rest', hp, rfl⟩
  · cases hp
  · cases hp
    exact ⟨rfl, rfl⟩
  · rw [State.withPending_pending, State.withPending_requester] at hp
    cases hp
    exact ⟨rfl, edgeEffect_pc p _⟩

/-- With its schedule used up, a run stays where it is (log entry 4). -/
theorem run_withPending_nil (k : Nat) (s : State) : run k (s.withPending []) = .next (s.withPending []) := by
  induction k with
  | zero => rfl
  | succ k ih => exact (run_succ_of_step k rfl).trans ih

/-- A run advances the index by the number of commands that the events of its steps get accepted. -/
theorem run_pc {s t : State} {es : List Event} {k : Nat} (h : run k (s.withPending es) = .next t) :
    t.pc = s.pc + ((es.take k).filterMap Event.accepted).length := by
  induction k generalizing s es with
  | zero => cases h; simp
  | succ k ih =>
    cases es with
    | nil =>
      rw [run_withPending_nil] at h
      cases h; simp
    | cons e rest =>
      obtain ⟨u, hu, hrun⟩ := run_succ_next h
      obtain ⟨hpend, hpc⟩ := step_pending_pc hu
      rw [← u.withPending_self, hpend] at hrun
      rw [ih hrun, hpc, List.take_succ_cons, List.filterMap_cons]
      cases e.accepted <;> simp [Nat.add_assoc, Nat.add_comm 1]

/-! ### The invariant of the verdict flags (R33) -/

theorem VerdictInv.resetBlock (s : State) : VerdictInv s.resetBlock := by simp [VerdictInv]

/-- NOP keeps both flags, INIT and UPDATE clear both, and CHECK sets `vld`. -/
theorem VerdictInv.commandEffect {s : State} (h : VerdictInv s) (i : Instr) : VerdictInv (commandEffect i s) := by
  cases i with
  | nop => exact h
  | init d => simp [VerdictInv, Machine.commandEffect]
  | update d => simp [VerdictInv, Machine.commandEffect]
  | check d => simp [VerdictInv, Machine.commandEffect]

theorem VerdictInv.edgeEffect {s : State} (h : VerdictInv s) (p : Sample) : VerdictInv (edgeEffect p s) := by
  rcases edgeEffect_cases p s with ⟨-, -, he⟩ | ⟨-, -, he⟩ | ⟨i, -, he⟩ <;> rw [he]
  · exact .resetBlock s
  · exact h
  · exact h.commandEffect i

theorem VerdictInv.edgesEffect {s : State} (h : VerdictInv s) (ps : List Sample) : VerdictInv (edgesEffect ps s) := by
  induction ps generalizing s with
  | nil => exact h
  | cons p ps ih => exact ih (h.edgeEffect p)

/-- A launched block that meets the invariant and holds no verdict shows `ok` = 0. -/
theorem VerdictInv.ok_eq_false {s : State} (h : VerdictInv s) (hl : s.launched = true) (hv : s.vld = false) :
    s.ok = false := by
  cases hok : s.ok with
  | false => rfl
  | true => exact absurd (h hl hok) (by simp [hv])

theorem reading_of_vld_eq_false {s : State} (hv : s.vld = false) : s.reading = .noVerdict := by
  simp [State.reading, hv]

/-! ### When a verdict is held (R22) -/

/-- After a command, a verdict is held where it is a CHECK, or where one was held before and it is a NOP. -/
theorem commandEffect_vld (i : Instr) (s : State) :
    (commandEffect i s).vld = true ↔ (s.vld = true ∧ i = .nop) ∨ ∃ d, i = .check d := by
  cases i <;> simp [commandEffect]

/-- An edge keeps a held verdict where it is idle, a NOP or a CHECK. -/
theorem keepsVerdict_iff (p : Sample) :
    p.keepsVerdict = true ↔
      (p.accepted = none ∧ p.rst = false) ∨ p.accepted = some .nop ∨ ∃ d, p.accepted = some (.check d) := by
  unfold Sample.keepsVerdict
  cases p.accepted with
  | none => simp
  | some i => cases i <;> simp

/-- After a defined edge, a verdict is held where one was held before and the edge keeps it, or where the edge accepts a CHECK. -/
theorem edgeEffect_vld (p : Sample) (s : State) :
    (edgeEffect p s).vld = true ↔
      (s.vld = true ∧ p.keepsVerdict = true) ∨ ∃ d, p.accepted = some (.check d) := by
  rw [keepsVerdict_iff]
  rcases edgeEffect_cases p s with ⟨hr, ha, he⟩ | ⟨hr, ha, he⟩ | ⟨i, ha, he⟩
  · simp [he, ha, hr]
  · simp [he, ha, hr]
  · rw [he, commandEffect_vld, ha]
    cases i <;> simp

/-- Some edge of the sequence accepts a CHECK, and every later one keeps the verdict. -/
def CheckedSinceWrite (ps : List Sample) : Prop :=
  ∃ before c after d, ps = before ++ c :: after ∧ c.accepted = some (.check d) ∧ ∀ p ∈ after, p.keepsVerdict = true

theorem not_checkedSinceWrite_nil : ¬ CheckedSinceWrite [] := by
  rintro ⟨before, c, after, d, h, -⟩
  simp at h

/-- That edge is the first of the sequence, or stands among the others. -/
theorem checkedSinceWrite_cons (p : Sample) (ps : List Sample) :
    CheckedSinceWrite (p :: ps) ↔
      ((∃ d, p.accepted = some (.check d)) ∧ ∀ q ∈ ps, q.keepsVerdict = true) ∨ CheckedSinceWrite ps := by
  constructor
  · rintro ⟨before, c, after, d, heq, hc, hafter⟩
    cases before with
    | nil =>
      cases heq
      exact .inl ⟨⟨d, hc⟩, hafter⟩
    | cons q before =>
      cases heq
      exact .inr ⟨before, c, after, d, rfl, hc, hafter⟩
  · rintro (⟨⟨d, hp⟩, hps⟩ | ⟨before, c, after, d, rfl, hc, hafter⟩)
    · exact ⟨[], p, ps, d, rfl, hp, hps⟩
    · exact ⟨p :: before, c, after, d, rfl, hc, hafter⟩

/-- After defined edges, a verdict is held where one was held before and all of them keep it, or where one of them is a CHECK
and all later ones keep it. -/
theorem edgesEffect_vld (ps : List Sample) (s : State) :
    (edgesEffect ps s).vld = true ↔
      (s.vld = true ∧ ∀ p ∈ ps, p.keepsVerdict = true) ∨ CheckedSinceWrite ps := by
  induction ps generalizing s with
  | nil => simp [not_checkedSinceWrite_nil]
  | cons p ps ih =>
    rw [edgesEffect_cons, ih, edgeEffect_vld, checkedSinceWrite_cons, List.forall_mem_cons]
    tauto

/-! ### What the outputs show (R23) -/

/-- A transparent edge is an idle one or a NOP (R66, R81). -/
theorem accepted_of_transparent {p : Sample} (h : p.transparent = true) :
    (p.accepted = none ∧ p.rst = false) ∨ p.accepted = some .nop := by
  unfold Sample.transparent at h
  cases ha : p.accepted with
  | none => exact .inl ⟨rfl, by simpa [ha] using h⟩
  | some i => cases i <;> simp [ha] at h ⊢

theorem edgeEffect_outputs_of_transparent {p : Sample} (h : p.transparent = true) (s : State) :
    (edgeEffect p s).outputs = s.outputs := by
  rcases accepted_of_transparent h with ⟨ha, hr⟩ | ha
  · simp [edgeEffect, ha, hr]
  · rw [edgeEffect_of_accepted ha]
    rfl

theorem edgesEffect_outputs_of_transparent {ps : List Sample} (h : ∀ p ∈ ps, p.transparent = true) (s : State) :
    (edgesEffect ps s).outputs = s.outputs := by
  induction ps generalizing s with
  | nil => rfl
  | cons p ps ih =>
    obtain ⟨hp, hps⟩ := List.forall_mem_cons.mp h
    rw [edgesEffect_cons, ih hps, edgeEffect_outputs_of_transparent hp]

/-- Where the last edge that is neither idle nor a NOP is a CHECK, the outputs show its verdict on the `acc` it met. -/
theorem edgesEffect_outputs_of_last_check {c : Sample} {d : Byte} {after : List Sample}
    (hc : c.accepted = some (.check d)) (hafter : ∀ p ∈ after, p.transparent = true) (before : List Sample) (s : State) :
    (edgesEffect (before ++ c :: after) s).outputs =
      ⟨(edgesEffect before s).acc, true, (edgesEffect before s).acc == d⟩ := by
  rw [edgesEffect_append, edgesEffect_cons, edgesEffect_outputs_of_transparent hafter, edgeEffect_of_accepted hc]
  rfl

/-! ### Several blocks (R34) -/

/-- Where a step of one of several blocks answers, it is that block's own step, put in the block's own place. -/
theorem stepUnit_next {units units' : List State} {k : Fin units.length} (h : stepUnit units k = .next units') :
    ∃ t, step units[k] = .next t ∧ units' = units.set k t := by
  unfold stepUnit at h
  split at h
  · rename_i t hs
    cases h
    exact ⟨t, hs, rfl⟩
  · cases h
  · cases h

end Sys2Proof.Machine
end

section
/-! PROOFS. The statements of 10_state.md. -/

namespace Sys2Proof.Machine

/-- Settles O28, by what a step can be: an edge keeps the invariant, and after a power-up the block is not launched. -/
theorem stepKeepsPassOnlyWithVerdict : Obligations.StepKeepsPassOnlyWithVerdict := by
  refine ⟨by simp [State.reset], fun s t hinv hstep => ?_⟩
  rcases step_next_edgeEffect hstep with ⟨-, rfl⟩ | ⟨rest, -, rfl⟩ | ⟨p, rest, -, rfl⟩
  · exact hinv
  · intro hl
    simp at hl
  · exact hinv.edgeEffect p

/-- Settles O30, by induction on the number of steps (`run_pc`). -/
theorem commandIndexCountsAcceptedCommands : Obligations.CommandIndexCountsAcceptedCommands := by
  refine ⟨rfl, fun s t es k h => ⟨run_pc h, fun hk => ?_⟩⟩
  have hpc := run_pc h
  rwa [List.take_of_length_le hk] at hpc

/-- Settles O33, by induction on the edges (`edgesEffect_vld`). -/
theorem vldTellsACheckSinceTheLastWrite : Obligations.VldTellsACheckSinceTheLastWrite := by
  intro s t ps hl hrun
  rw [eq_of_run_drive hl hrun]
  exact edgesEffect_vld ps s

/-- Settles O34: the edges after the last CHECK leave what it wrote, and the third clause is R33's invariant. -/
theorem okIsTheMostRecentComparison : Obligations.OkIsTheMostRecentComparison := by
  intro s t ps hl hrun
  obtain rfl := eq_of_run_drive hl hrun
  refine ⟨?_, fun h => edgesEffect_outputs_of_transparent h s, fun hinv hv => ⟨?_, reading_of_vld_eq_false hv⟩⟩
  · rintro before c after d rfl hc hafter
    have hout := edgesEffect_outputs_of_last_check hc hafter before s
    obtain ⟨hacc, hvld, hok⟩ := Outputs.mk.inj hout
    refine ⟨?_, hvld⟩
    rw [State.withPending_acc, hacc]
    exact hok
  · exact (hinv.edgesEffect ps).ok_eq_false (edgesEffect_launched hl) hv

/-- Settles O38: a block's step replaces its own entry of the list. -/
theorem blocksShareNoState : Obligations.BlocksShareNoState := by
  intro units units' k h
  obtain ⟨t, hs, rfl⟩ := stepUnit_next h
  refine ⟨List.length_set, ⟨t, hs, List.getElem?_set_self k.isLt⟩, fun j hj => ?_⟩
  exact List.getElem?_set_ne hj.symm

end Sys2Proof.Machine
end

section
/-! PROOFS. The constant table and the rounds it tabulates, of 20_memory.md. -/

namespace Sys2Proof.Machine

/-! ### The bit-serial step (R42) -/

/-- One round, bit by bit: the bits move down by one, and a 1 that falls out flips the bits of `P_refl`. -/
theorem crcRound_getLsbD (c : Byte) (k : Nat) :
    (crcRound c).getLsbD k = (c.getLsbD (k + 1) ^^ (c.getLsbD 0 && Config.polyRefl.getLsbD k)) := by
  unfold crcRound
  cases c.getLsbD 0 <;> simp [Nat.add_comm 1 k]

theorem crcRound_xor (x y : Byte) : crcRound (x ^^^ y) = crcRound x ^^^ crcRound y := by
  apply BitVec.eq_of_getLsbD_eq
  intro k _
  simp only [crcRound_getLsbD, BitVec.getLsbD_xor, Bool.and_xor_distrib_right, Bool.xor_assoc, Bool.xor_left_comm]

/-- `P_refl` has its top bit set, so the bit that falls out of a round comes back at the top, where nothing else moves in. -/
theorem crcRound_getLsbD_seven (c : Byte) : (crcRound c).getLsbD 7 = c.getLsbD 0 := by
  have hpoly : Config.polyRefl.getLsbD 7 = true := by decide
  rw [crcRound_getLsbD, hpoly, BitVec.getLsbD_of_ge c (7 + 1) (Nat.le_refl 8), Bool.and_true, Bool.false_xor]

/-- No round loses a bit: the top bit of the result tells which bit fell out, hence what was flipped in the others. -/
theorem crcRound_injective : Function.Injective crcRound := by
  intro x y h
  have hlow : x.getLsbD 0 = y.getLsbD 0 := by
    rw [← crcRound_getLsbD_seven x, ← crcRound_getLsbD_seven y, h]
  apply BitVec.eq_of_getLsbD_eq
  intro k _
  cases k with
  | zero => exact hlow
  | succ k =>
    have hk : (crcRound x).getLsbD k = (crcRound y).getLsbD k := by rw [h]
    rwa [crcRound_getLsbD, crcRound_getLsbD, hlow, Bool.xor_left_inj] at hk

theorem crcRounds_xor (n : Nat) (x y : Byte) : crcRounds n (x ^^^ y) = crcRounds n x ^^^ crcRounds n y := by
  induction n generalizing x y with
  | zero => rfl
  | succ n ih => rw [crcRounds, crcRound_xor, ih, crcRounds, crcRounds]

theorem crcRounds_injective (n : Nat) : Function.Injective (crcRounds n) := by
  induction n with
  | zero => exact Function.injective_id
  | succ n ih => exact ih.comp crcRound_injective

/-! ### The table (R41, R44) -/

/-- The sixteen rows of `T`, as R41 prints them. -/
def tableRows : List (List Byte) :=
  [tableRow0, tableRow1, tableRow2, tableRow3, tableRow4, tableRow5, tableRow6, tableRow7,
   tableRow8, tableRow9, tableRowA, tableRowB, tableRowC, tableRowD, tableRowE, tableRowF]

theorem crcTable_eq_flatten_tableRows : crcTable = tableRows.flatten := by
  simp [crcTable, tableRows]

/-- The printed entries, each compared with the eight rounds of its index. -/
theorem tableRows_eq_map_step8 :
    tableRows =
      (List.range 16).map fun hi => ((List.range 16).map (16 * hi + ·)).map fun i => step8 (BitVec.ofNat 8 i) := by
  decide

/-- Rows of sixteen indices, one after another, are the indices in order. -/
theorem flatMap_range_sixteen (n : Nat) :
    ((List.range n).flatMap fun hi => (List.range 16).map (16 * hi + ·)) = List.range (16 * n) := by
  induction n with
  | zero => rfl
  | succ n ih => rw [List.range_succ (n := n), List.flatMap_append, ih, List.flatMap_singleton, Nat.mul_succ, List.range_add]

theorem crcTable_eq_map_step8 : crcTable = (List.range 256).map fun i => step8 (BitVec.ofNat 8 i) := by
  rw [crcTable_eq_flatten_tableRows, tableRows_eq_map_step8, ← List.flatMap_def, ← List.map_flatMap,
    flatMap_range_sixteen]

theorem T_eq_step8 (i : Byte) : T i = step8 i := by
  simp only [T, crcTable_eq_map_step8, List.getElem_map, List.getElem_range, BitVec.ofNat_toNat, BitVec.setWidth_eq]

theorem T_xor (x y : Byte) : T (x ^^^ y) = T x ^^^ T y := by
  simp only [T_eq_step8]
  exact crcRounds_xor Config.crcWidth x y

theorem T_zero : T 0x00 = 0x00 := by
  simpa using T_xor 0x00 0x00

theorem T_injective : Function.Injective T := by
  rw [funext T_eq_step8]
  exact crcRounds_injective Config.crcWidth

theorem T_surjective : Function.Surjective T :=
  have : Finite Byte := Finite.of_injective BitVec.toFin BitVec.toFin_injective
  Finite.surjective_of_injective T_injective

end Sys2Proof.Machine
end

section
/-! PROOFS. The statements of 20_memory.md. -/

namespace Sys2Proof.Machine

/-- Settles O10: the table, which has its length by `crcTable_length`, is the list of `step8` at every index. -/
theorem tableEntriesAreEightRounds : Obligations.TableEntriesAreEightRounds :=
  ⟨crcTable_length, T_eq_step8⟩

/-- Settles O11: each of the eight rounds is injective and linear, hence the table is, and 256 bytes that differ are all bytes. -/
theorem tableIsALinearBijection : Obligations.TableIsALinearBijection :=
  ⟨T_zero, fun _ _ h => T_injective h, T_surjective, T_xor⟩

end Sys2Proof.Machine
end

section
/-! PROOFS. The fields of a command word and of an encoded command, the opcode table's rows by the operation select, and the
words of command lists, of 30_encoding.md. -/

namespace Sys2Proof

/-! ### The operation select decides the command (R61, R62, R65) -/

/-- Everything a word can decode to, by its operation select. -/
theorem decode_cases (w : Word) :
    (opField w = 0b00 ∧ decode w = .nop) ∨
    (opField w = 0b01 ∧ decode w = .init (dField w)) ∨
    (opField w = 0b10 ∧ decode w = .update (dField w)) ∨
    (opField w = 0b11 ∧ decode w = .check (dField w)) := by
  rcases op_cases (opField w) with h | h | h | h
  · exact .inl ⟨h, decode_of_op_nop h⟩
  · exact .inr (.inl ⟨h, decode_of_op_init h⟩)
  · exact .inr (.inr (.inl ⟨h, decode_of_op_update h⟩))
  · exact .inr (.inr (.inr ⟨h, decode_of_op_check h⟩))

/-- The 256 words from `op * 256` on are those of the operation select `op`, each with its offset as its byte (R61). -/
theorem fields_of_range {w : Word} {op : BitVec 2} {base : Nat}
    (hlow : base ≤ w.toNat) (hhigh : w.toNat < base + 256) (hbase : op.toNat * 256 = base) :
    opField w = op ∧ dField w = BitVec.ofNat 8 (w.toNat - base) := by
  constructor
  · apply BitVec.eq_of_toNat_eq
    rw [opField_toNat]
    omega
  · apply BitVec.eq_of_toNat_eq
    rw [dField_toNat, BitVec.toNat_ofNat]
    omega

/-- The mask 0x300 keeps the operation select and clears the byte (R62). -/
theorem and_opMask (w : Word) : w &&& 0x300 = (opField w ++ 0#8 : Word) := by
  calc w &&& 0x300
      = (opField w ++ dField w) &&& (BitVec.allOnes 2 ++ 0#8) := by rw [opField_append_dField]; rfl
    _ = opField w ++ 0#8 := by rw [BitVec.and_append, BitVec.and_allOnes, BitVec.and_zero]

/-- A row with the mask 0x300 covers exactly the words that have the operation select of its match value. -/
theorem covers_opMask (m : String) (op : BitVec 2) (w : Word) :
    OpcodeRow.covers ⟨m, 0x300, op ++ 0#8⟩ w = decide (opField w = op) := by
  have hop : (opField w ++ 0#8 : Word) = op ++ 0#8 ↔ opField w = op :=
    ⟨fun h => by simpa using congrArg opField h, fun h => by rw [h]⟩
  rw [OpcodeRow.covers, and_opMask, beq_eq_decide]
  exact decide_eq_decide.mpr hop

/-- The opcode table, each match value written with its operation select. -/
theorem opcodeTable_eq : opcodeTable =
    [⟨"NOP", 0x300, 0b00#2 ++ 0#8⟩, ⟨"INIT", 0x300, 0b01#2 ++ 0#8⟩, ⟨"UPDATE", 0x300, 0b10#2 ++ 0#8⟩,
      ⟨"CHECK", 0x300, 0b11#2 ++ 0#8⟩] := rfl

/-- One row of the opcode table covers a word: the one of its operation select, named as the decoded command (R65). -/
theorem filter_covers_opcodeTable (w : Word) :
    opcodeTable.filter (fun r => r.covers w) = [⟨(decode w).mnemonic, 0x300, opField w ++ 0#8⟩] := by
  simp only [opcodeTable_eq, List.filter_cons, List.filter_nil, covers_opMask]
  rcases decode_cases w with ⟨hop, hd⟩ | ⟨hop, hd⟩ | ⟨hop, hd⟩ | ⟨hop, hd⟩ <;> rw [hop, hd] <;> rfl

/-! ### The words of commands (R61 to R64) -/

/-- The word `{op, d}` as the match value of `op` with the byte put in. -/
theorem append_fields_eq_or (op : BitVec 2) (d : Byte) : (op ++ d : Word) = (op ++ 0#8) ||| d.setWidth 10 := by
  have hd : d.setWidth 10 = 0#2 ++ d := BitVec.setWidth_eq_append (by decide)
  rw [hd, BitVec.or_append, BitVec.or_zero, BitVec.zero_or]

theorem encode_nop : encode .nop = 0x000 := rfl

theorem encode_init (seed : Byte) : encode (.init seed) = 0x100 ||| seed.setWidth 10 := append_fields_eq_or 0b01 seed

theorem encode_update (byte : Byte) : encode (.update byte) = 0x200 ||| byte.setWidth 10 := append_fields_eq_or 0b10 byte

theorem encode_check (expected : Byte) : encode (.check expected) = 0x300 ||| expected.setWidth 10 :=
  append_fields_eq_or 0b11 expected

/-! ### The words of the pseudo-commands' command lists (R70 to R73) -/

theorem map_encode_blockCommands (seed : Byte) (bytes : List Byte) :
    (blockCommands seed bytes).map encode =
      (0x100 ||| seed.setWidth 10) :: bytes.map (fun b => 0x200 ||| b.setWidth 10) := by
  rw [blockCommands, List.map_cons, encode_init, List.map_map]
  exact congrArg _ (List.map_congr_left fun b _ => encode_update b)

theorem map_encode_trailerForm (pre : List Byte) (trailer : Byte) :
    (trailerForm pre trailer).map encode =
      0x100 :: pre.map (fun b => 0x200 ||| b.setWidth 10) ++ [0x300 ||| trailer.setWidth 10] := by
  rw [trailerForm, List.map_append, map_encode_blockCommands, List.map_singleton, encode_check]
  rfl

/-- The round trip is the other form with the whole frame as its prefix and 0x00 as its trailer. -/
theorem map_encode_roundTripForm (frame : List Byte) :
    (roundTripForm frame).map encode = 0x100 :: frame.map (fun b => 0x200 ||| b.setWidth 10) ++ [0x300] :=
  map_encode_trailerForm frame 0x00

end Sys2Proof
end

section
/-! PROOFS. The statements of 30_encoding.md. -/

namespace Sys2Proof.Machine

/-- Settles O9: the lists of BLOCK and of the two validation forms, written in words. -/
theorem pseudoCommandsExpandToTheirWords : Obligations.PseudoCommandsExpandToTheirWords := by
  refine ⟨?clear, map_encode_blockCommands, ?vrom, ?vsp, map_encode_roundTripForm⟩
  case clear => exact congrArg (fun w => [w]) (encode_init 0x00)
  case vrom => exact fun r0 r1 r2 r3 r4 r5 r6 r7 => map_encode_trailerForm [r0, r1, r2, r3, r4, r5, r6] r7
  case vsp => exact fun s0 s1 s2 s3 s4 s5 s6 s7 s8 => map_encode_trailerForm [s0, s1, s2, s3, s4, s5, s6, s7] s8

/-- Settles O1: a word's range fixes its operation select, and its offset in the range is its byte. -/
theorem wordRangeSelectsCommand : Obligations.WordRangeSelectsCommand := by
  intro w
  refine ⟨fun h => ?nop, fun ⟨hlow, hhigh⟩ => ?init, fun ⟨hlow, hhigh⟩ => ?update, fun hlow => ?check, rfl⟩
  case nop =>
    obtain ⟨hop, -⟩ := fields_of_range (op := 0b00) (Nat.zero_le w.toNat) (Nat.lt_succ_of_le h) rfl
    exact decode_of_op_nop hop
  case init =>
    obtain ⟨hop, hd⟩ := fields_of_range (op := 0b01) hlow (Nat.lt_succ_of_le hhigh) rfl
    rw [decode_of_op_init hop, hd]
  case update =>
    obtain ⟨hop, hd⟩ := fields_of_range (op := 0b10) hlow (Nat.lt_succ_of_le hhigh) rfl
    rw [decode_of_op_update hop, hd]
  case check =>
    obtain ⟨hop, hd⟩ := fields_of_range (op := 0b11) hlow w.isLt rfl
    rw [decode_of_op_check hop, hd]

/-- Settles O2: the opcode table filtered by a word is the one row named as its command (`filter_covers_opcodeTable`). -/
theorem everyWordIsOfExactlyOneRow : Obligations.EveryWordIsOfExactlyOneRow := by
  intro w
  rw [filter_covers_opcodeTable, List.map_singleton]

/-- Settles O3: a word is its two fields put together, and what it decodes to is a matter of the operation select. -/
theorem wordIsOperationAndByte : Obligations.WordIsOperationAndByte := by
  intro w
  refine ⟨?number, fun k hk => ?op, fun k hk => ?d, ?command⟩
  case number => rw [← toNat_append_fields, opField_append_dField]
  case op => simp [opField, hk]
  case d => simp [dField, hk]
  case command => exact (decode_cases w).imp And.right (.imp And.right (.imp And.right And.right))

/-- Settles O4: the operation select alone makes a word NOP's. -/
theorem nopIgnoresItsByte : Obligations.NopIgnoresItsByte :=
  ⟨fun d => decode_of_op_nop (opField_append 0b00 d), encode_nop⟩

/-- Settles O22: an edge that neither resets nor accepts a command has no effect, and a NOP's effect is the index alone. -/
theorem idleEdgeChangesNothing : Obligations.IdleEdgeChangesNothing := by
  intro s w rest hl
  refine ⟨?idle, exec_eq .nop (s.withPending rest)⟩
  exact (step_drivenBy rest (.inr hl)).trans (cycle_eq ⟨false, false, w⟩ (s.withPending rest))

end Sys2Proof.Machine
end

section
/-! PROOFS. A command's word decodes to the command, as each statement of 40_crc_commands.md says of its own. -/

namespace Sys2Proof

/-- A command is decoded from its own word: the operation select gives the command, the byte its operand (R61 to R64). -/
theorem decode_encode (i : Instr) : decode (encode i) = i := by
  have hop := opField_encode i
  have hd := dField_encode i
  cases i with
  | nop => exact decode_of_op_nop hop
  | init seed => exact (decode_of_op_init hop).trans (congrArg Instr.init hd)
  | update byte => exact (decode_of_op_update hop).trans (congrArg Instr.update hd)
  | check expected => exact (decode_of_op_check hop).trans (congrArg Instr.check hd)

end Sys2Proof
end

section
/-! PROOFS. The statements of 40_crc_commands.md. -/

namespace Sys2Proof.Machine

/-- Settles O13: the operation select alone makes the word NOP's, and NOP's effect is the index alone. -/
theorem nopKeepsAllRegisters : Obligations.NopKeepsAllRegisters := by
  intro d s
  obtain ⟨hdecode, -⟩ := nopIgnoresItsByte
  exact ⟨hdecode d, exec_eq .nop s⟩

/-- Settles O14: the word is INIT's own, and its effect writes the seed, both flags and the index. -/
theorem initLoadsTheSeed : Obligations.InitLoadsTheSeed :=
  fun d s => ⟨decode_encode (.init d), exec_eq (.init d) s⟩

/-- Settles O15: the word is UPDATE's own, and its effect writes the table entry, both flags and the index. -/
theorem updateWritesTheTableEntry : Obligations.UpdateWritesTheTableEntry :=
  fun d s => ⟨decode_encode (.update d), exec_eq (.update d) s⟩

/-- Settles O16: the word is CHECK's own, and its effect writes both flags, `ok` with the comparison, and the index. -/
theorem checkRecordsTheVerdict : Obligations.CheckRecordsTheVerdict := by
  intro d s
  refine ⟨decode_encode (.check d), ?effect⟩
  rw [← beq_eq_decide]
  exact exec_eq (.check d) s

/-- Settles O17: every table entry is the eight rounds of its index (`T_eq_step8`), and UPDATE reads the entry at `acc ^ d`. -/
theorem updateIsBitSerial : Obligations.UpdateIsBitSerial := by
  rintro _ d s rfl
  obtain ⟨-, hexec⟩ := updateWritesTheTableEntry d s
  rw [T_eq_step8] at hexec
  exact ⟨T_eq_step8 (s.acc ^^^ d), hexec⟩

end Sys2Proof.Machine
end

section
/-! PROOFS. The laws of the fold, of 41_validation.md section 3: what it makes of a byte more, and that it is injective and
linear, as each of its steps is (R44). -/

namespace Sys2Proof.Machine

@[simp] theorem fold_nil (s : Byte) : fold s [] = s := rfl

@[simp] theorem fold_cons (s b : Byte) (bytes : List Byte) : fold s (b :: bytes) = fold (crcStep s b) bytes := rfl

theorem fold_append (s : Byte) (a b : List Byte) : fold s (a ++ b) = fold (fold s a) b := by
  induction a generalizing s with
  | nil => rfl
  | cons x a ih => exact ih (crcStep s x)

/-! ### One step (R44) -/

theorem crcStep_left_injective (b : Byte) : Function.Injective (crcStep · b) :=
  fun _ _ h => BitVec.xor_left_inj b |>.mp (T_injective h)

theorem crcStep_right_injective (c : Byte) : Function.Injective (crcStep c) :=
  fun _ _ h => BitVec.xor_right_inj c |>.mp (T_injective h)

@[simp] theorem crcStep_self (c : Byte) : crcStep c c = 0x00 := by
  rw [crcStep, BitVec.xor_self]
  exact T_zero

/-- Linear in the CRC and the byte together. -/
theorem crcStep_xor (c c' b b' : Byte) : crcStep (c ^^^ c') (b ^^^ b') = crcStep c b ^^^ crcStep c' b' := by
  have hindex : (c ^^^ c') ^^^ (b ^^^ b') = (c ^^^ b) ^^^ (c' ^^^ b') := by ac_rfl
  rw [crcStep, hindex, T_xor, crcStep, crcStep]

/-! ### Round trip and detection (R106, R107, R109) -/

/-- A frame folds to 0x00 exactly where its trailer is the fold of its prefix. -/
theorem fold_append_singleton_eq_zero_iff (s : Byte) (pre : List Byte) (trailer : Byte) :
    fold s (pre ++ [trailer]) = 0x00 ↔ fold s pre = trailer := by
  rw [fold_append, fold_cons, fold_nil, ← crcStep_self (fold s pre), (crcStep_right_injective _).eq_iff, eq_comm]

theorem fold_injective (bytes : List Byte) : Function.Injective (fold · bytes) := by
  induction bytes with
  | nil => exact Function.injective_id
  | cons b bytes ih => exact ih.comp (crcStep_left_injective b)

/-- The step at the differing byte parts the two folds, and the equal bytes after it keep them apart. -/
theorem fold_ne_of_differInOneByte {f g : List Byte} (h : DifferInOneByte f g) (s : Byte) : fold s f ≠ fold s g := by
  obtain ⟨before, after, x, y, hxy, rfl, rfl⟩ := h
  rw [fold_append, fold_append, fold_cons, fold_cons, (fold_injective after).ne_iff]
  exact (crcStep_right_injective _).ne hxy

/-! ### Linearity and the seed's term (R108, R110) -/

/-- Linear in the seed and the bytes together. -/
theorem fold_xor {a b : List Byte} (h : a.length = b.length) (s s' : Byte) :
    fold (s ^^^ s') (List.zipWith (· ^^^ ·) a b) = fold s a ^^^ fold s' b := by
  induction a generalizing b s s' with
  | nil =>
    obtain rfl := List.eq_nil_of_length_eq_zero h.symm
    rfl
  | cons x a ih =>
    obtain ⟨y, b, rfl⟩ := List.exists_cons_of_length_eq_add_one h.symm
    rw [List.zipWith_cons_cons, fold_cons, crcStep_xor, ih (Nat.succ.inj h), fold_cons, fold_cons]

theorem zipWith_xor_replicate_zero (bytes : List Byte) :
    List.zipWith (· ^^^ ·) (List.replicate bytes.length 0x00) bytes = bytes := by
  induction bytes with
  | nil => rfl
  | cons b bytes ih => simpa [List.replicate_succ] using ih

theorem fold_zero_replicate_zero (n : Nat) : fold 0x00 (List.replicate n 0x00) = 0x00 := by
  induction n with
  | zero => rfl
  | succ n ih => rw [List.replicate_succ, fold_cons, crcStep_self, ih]

end Sys2Proof.Machine
end

section
/-! PROOFS. Commands presented at consecutive edges, and what the command lists of BLOCK and of the two validation forms leave
(R70 to R73). -/

namespace Sys2Proof.Machine

/-- What a sequence of accepted commands leaves. -/
def commandsEffect (commands : List Instr) (s : State) : State := commands.foldl (fun s i => commandEffect i s) s

@[simp] theorem commandsEffect_nil (s : State) : commandsEffect [] s = s := rfl

@[simp] theorem commandsEffect_cons (i : Instr) (commands : List Instr) (s : State) :
    commandsEffect (i :: commands) s = commandsEffect commands (commandEffect i s) := rfl

theorem commandsEffect_append (a b : List Instr) (s : State) :
    commandsEffect (a ++ b) s = commandsEffect b (commandsEffect a s) := List.foldl_append

/-- An edge that presents a command's word accepts the command. -/
@[simp] theorem presenting_encode_accepted (i : Instr) : (presenting (encode i)).accepted = some i :=
  congrArg some (decode_encode i)

theorem edgesEffect_map_presenting (commands : List Instr) (s : State) :
    edgesEffect (commands.map fun i => presenting (encode i)) s = commandsEffect commands s := by
  induction commands generalizing s with
  | nil => rfl
  | cons i commands ih =>
    rw [List.map_cons, edgesEffect_cons, edgeEffect_of_accepted (presenting_encode_accepted i), ih, commandsEffect_cons]

/-- A run over commands that a launched block's requester presents. -/
theorem run_present {s : State} (commands : List Instr) (rest : List Event) (h : s.launched = true) :
    run commands.length (s.withPending (present s.requester commands ++ rest)) =
      .next ((commandsEffect commands s).withPending rest) := by
  have hrun := run_drive (commands.map fun i => presenting (encode i)) rest h
  rwa [List.length_map, edgesEffect_map_presenting] at hrun

theorem stateAfter_eq {s : State} (commands : List Instr) (h : s.launched = true) :
    stateAfter commands s = some ((commandsEffect commands s).withPending []) := by
  have hrun := run_present commands [] h
  rw [List.append_nil] at hrun
  rw [stateAfter, hrun]

/-- An edge of the block's own requester without reset is refused where the block has not been reset since power-up (R30). -/
theorem onEdge_unreset {i : Inputs} {p : Sample} {s : State} (hp : i.sample = some p) (hd : i.driver = s.requester)
    (hr : p.rst = false) (hl : s.launched = false) : onEdge i s = .refused .unreset := by
  simp [onEdge, hp, hd, hr, hl]

/-- A step at such an edge. -/
theorem step_unreset {p : Sample} {s : State} (rest : List Event) (hr : p.rst = false) (hl : s.launched = false) :
    step (s.withPending (p.drivenBy s.requester :: rest)) = .refused .unreset :=
  onEdge_unreset (i := ⟨s.requester, some p.rst, some p.cmdValid, some p.cmd⟩) (sample_ports _ p) rfl hr hl

/-- Where commands are presented and leave a state, the block is launched. -/
theorem launched_of_stateAfter {i : Instr} {commands : List Instr} {s t : State}
    (h : stateAfter (i :: commands) s = some t) : s.launched = true := by
  by_contra hl
  have hrun : run (i :: commands).length (s.withPending (present s.requester (i :: commands))) = .refused .unreset :=
    run_succ_of_refused _ (step_unreset _ rfl (Bool.eq_false_of_not_eq_true hl))
  rw [stateAfter, hrun] at h
  cases h

/-! ### BLOCK (R101) -/

/-- UPDATEs, from a state that holds no verdict, fold their bytes into `acc` and leave the verdict cleared. -/
theorem commandsEffect_map_update (bytes : List Byte) (s : State) :
    commandsEffect (bytes.map .update) s.dropVerdict =
      { s.dropVerdict with acc := fold s.acc bytes, pc := s.pc + bytes.length } := by
  induction bytes generalizing s with
  | nil => rfl
  | cons b bytes ih =>
    have hrest := ih ((s.setAcc (crcStep s.acc b)).advance)
    rw [State.advance_pc, State.setAcc_pc, Nat.add_assoc, Nat.add_comm 1] at hrest
    exact hrest

theorem commandsEffect_blockCommands (seed : Byte) (bytes : List Byte) (s : State) :
    commandsEffect (blockCommands seed bytes) s =
      { s with acc := fold seed bytes, vld := false, ok := false, pc := s.pc + (bytes.length + 1) } := by
  have hupdates := commandsEffect_map_update bytes (s.setAcc seed).advance
  rw [State.advance_pc, State.setAcc_pc, Nat.add_assoc, Nat.add_comm 1] at hupdates
  exact hupdates

/-! ### The two validation forms (R103 to R105) -/

theorem commandsEffect_trailerForm (pre : List Byte) (trailer : Byte) (s : State) :
    commandsEffect (trailerForm pre trailer) s =
      { s with acc := fold 0x00 pre, vld := true, ok := fold 0x00 pre == trailer, pc := s.pc + (pre.length + 2) } := by
  rw [trailerForm, commandsEffect_append, commandsEffect_blockCommands]
  rfl

theorem trailerForm_length (pre : List Byte) (trailer : Byte) : (trailerForm pre trailer).length = pre.length + 2 := by
  simp [trailerForm, blockCommands]

/-- The round trip is the other form with the whole frame as its prefix and 0x00 as its trailer. -/
theorem roundTripForm_eq_trailerForm (frame : List Byte) : roundTripForm frame = trailerForm frame 0x00 := rfl

/-- What the trailer comparison leaves in the three registers of a launched block. -/
theorem stateAfter_trailerForm {s : State} (pre : List Byte) (trailer : Byte) (hl : s.launched = true) :
    ∃ t, stateAfter (trailerForm pre trailer) s = some t ∧
      t.acc = fold 0x00 pre ∧ t.vld = true ∧ (t.ok = true ↔ fold 0x00 pre = trailer) := by
  refine ⟨_, stateAfter_eq _ hl, ?_⟩
  rw [commandsEffect_trailerForm]
  exact ⟨rfl, rfl, beq_iff_eq⟩

/-- The verdict on a frame whose prefix has `n` bytes, after n+2 edges. -/
theorem trailerForm_verdict {s : State} {pre : List Byte} {n : Nat} (trailer : Byte) (hl : s.launched = true)
    (hn : pre.length = n) :
    ∃ t, stateAfter (trailerForm pre trailer) s = some t ∧ (trailerForm pre trailer).length = n + 2 ∧
      t.acc = fold 0x00 pre ∧ t.vld = true ∧ (t.ok = true ↔ fold 0x00 pre = trailer) := by
  obtain ⟨t, ht, hregisters⟩ := stateAfter_trailerForm pre trailer hl
  exact ⟨t, ht, hn ▸ trailerForm_length pre trailer, hregisters⟩

theorem reading_eq_pass_iff {t : State} (hvld : t.vld = true) : t.reading = .pass ↔ t.ok = true := by
  simp [State.reading, hvld]

/-- From any state: what is read as a pass after the trailer comparison has its prefix's fold as its trailer. -/
theorem fold_eq_of_trailerForm_pass {s : State} {pre : List Byte} {trailer : Byte}
    (h : (stateAfter (trailerForm pre trailer) s).map State.reading = some .pass) : fold 0x00 pre = trailer := by
  obtain ⟨t, ht, hread⟩ := Option.map_eq_some_iff.mp h
  obtain ⟨u, hu, -, hvld, hok⟩ := stateAfter_trailerForm pre trailer (launched_of_stateAfter ht)
  obtain rfl := Option.some.inj (ht.symm.trans hu)
  exact hok.mp ((reading_eq_pass_iff hvld).mp hread)

end Sys2Proof.Machine
end

section
/-! PROOFS. What edges that keep a fold leave in `acc`, and that no verdict is held between an INIT, an UPDATE or a reset and
the next CHECK (R102). -/

namespace Sys2Proof.Machine

/-- An edge that keeps a fold is idle, or accepts any command but an INIT. -/
theorem accepted_of_keepsFold {p : Sample} (h : p.keepsFold = true) :
    (p.accepted = none ∧ p.rst = false) ∨ p.accepted = some .nop ∨ (∃ d, p.accepted = some (.update d)) ∨
      ∃ d, p.accepted = some (.check d) := by
  unfold Sample.keepsFold at h
  cases ha : p.accepted with
  | none => exact .inl ⟨rfl, by simpa [ha] using h⟩
  | some i => cases i <;> simp [ha] at h ⊢

/-- Such an edge folds in the byte of its UPDATE, if it accepts one, and leaves `acc` otherwise. -/
theorem edgeEffect_acc_of_keepsFold {p : Sample} (h : p.keepsFold = true) (s : State) :
    (edgeEffect p s).acc = fold s.acc p.foldedByte.toList := by
  rcases accepted_of_keepsFold h with ⟨ha, hr⟩ | ha | ⟨d, ha⟩ | ⟨d, ha⟩
  · simp [edgeEffect, Sample.foldedByte, ha, hr]
  all_goals
    rw [edgeEffect_of_accepted ha]
    simp [commandEffect, Sample.foldedByte, ha, crcStep]

theorem edgesEffect_acc_of_keepsFold {ps : List Sample} (h : ∀ p ∈ ps, p.keepsFold = true) (s : State) :
    (edgesEffect ps s).acc = fold s.acc (ps.filterMap Sample.foldedByte) := by
  induction ps generalizing s with
  | nil => rfl
  | cons p ps ih =>
    obtain ⟨hp, hps⟩ := List.forall_mem_cons.mp h
    rw [edgesEffect_cons, ih hps, edgeEffect_acc_of_keepsFold hp, ← fold_append, List.filterMap_cons]
    cases p.foldedByte <;> rfl

/-- A reset, an INIT and an UPDATE clear both flags. -/
theorem edgeEffect_flags_of_not_keepsVerdict {p : Sample} (h : p.keepsVerdict = false) (s : State) :
    (edgeEffect p s).vld = false ∧ (edgeEffect p s).ok = false := by
  unfold Sample.keepsVerdict at h
  rcases edgeEffect_cases p s with ⟨-, -, he⟩ | ⟨hr, ha, -⟩ | ⟨i, ha, he⟩
  · rw [he]
    exact ⟨rfl, rfl⟩
  · simp [ha, hr] at h
  · rw [he]
    cases i <;> simp [ha, commandEffect] at h ⊢

/-- Without a CHECK, a launched block that holds no verdict goes on holding none. -/
theorem edgesEffect_flags_of_no_check {ps : List Sample} {s : State} (hl : s.launched = true) (hvld : s.vld = false)
    (hok : s.ok = false) (hps : ∀ p ∈ ps, ∀ d, p.accepted ≠ some (.check d)) :
    (edgesEffect ps s).vld = false ∧ (edgesEffect ps s).ok = false := by
  have hinv : VerdictInv s := by simp [VerdictInv, hok]
  have hvld' : (edgesEffect ps s).vld = false := by
    refine Bool.eq_false_of_not_eq_true fun hv => ?_
    rcases (edgesEffect_vld ps s).mp hv with ⟨hs, -⟩ | ⟨before, c, after, d, rfl, hc, -⟩
    · simp [hvld] at hs
    · exact hps c (by simp) d hc
  exact ⟨hvld', (hinv.edgesEffect ps).ok_eq_false (edgesEffect_launched hl) hvld'⟩

/-- After an edge that clears the verdict, none is held until a CHECK. -/
theorem edgesEffect_flags_of_no_later_check {c : Sample} {after : List Sample} {s : State} (hl : s.launched = true)
    (hc : c.keepsVerdict = false) (hafter : ∀ p ∈ after, ∀ d, p.accepted ≠ some (.check d)) (before : List Sample) :
    (edgesEffect (before ++ c :: after) s).vld = false ∧ (edgesEffect (before ++ c :: after) s).ok = false := by
  obtain ⟨hvld, hok⟩ := edgeEffect_flags_of_not_keepsVerdict hc (edgesEffect before s)
  rw [edgesEffect_append, edgesEffect_cons]
  exact edgesEffect_flags_of_no_check (edgeEffect_launched (edgesEffect_launched hl)) hvld hok hafter

theorem not_check_of_transparent {p : Sample} (h : p.transparent = true) (d : Byte) : p.accepted ≠ some (.check d) := by
  rcases accepted_of_transparent h with ⟨ha, -⟩ | ha <;> simp [ha]

theorem keepsVerdict_of_update {p : Sample} {d : Byte} (h : p.accepted = some (.update d)) : p.keepsVerdict = false := by
  simp [Sample.keepsVerdict, h]

/-- An edge that restarts a fold, by INIT or by reset, leaves the seed in `acc` and clears the verdict. -/
theorem edgeEffect_of_restart {c : Sample} {seed : Byte}
    (h : c.accepted = some (.init seed) ∨ (c.rst = true ∧ seed = 0x00)) :
    c.keepsVerdict = false ∧ ∀ s, (edgeEffect c s).acc = seed := by
  rcases h with ha | ⟨hr, rfl⟩
  · exact ⟨by simp [Sample.keepsVerdict, ha], fun s => by rw [edgeEffect_of_accepted ha]; rfl⟩
  · have ha : c.accepted = none := by simp [Sample.accepted, hr]
    exact ⟨by simp [Sample.keepsVerdict, ha, hr], fun s => by simp [edgeEffect, ha, hr]⟩

end Sys2Proof.Machine
end

section
/-! PROOFS. The statements of 41_validation.md. -/

namespace Sys2Proof.Machine

/-- Settles O39, by what BLOCK's commands leave (`commandsEffect_blockCommands`), an induction over the bytes. -/
theorem blockLeavesTheFold : Obligations.BlockLeavesTheFold := by
  intro s seed bytes rest hl
  have hlen : (blockCommands seed bytes).length = bytes.length + 1 := by simp [blockCommands]
  have hrun := run_present (blockCommands seed bytes) rest hl
  rw [hlen, commandsEffect_blockCommands] at hrun
  exact hrun

/-- Settles O40: edges that keep the fold add their UPDATEs' bytes to it from whatever `acc` they find, an INIT's seed and a
reset's 0x00 included, and only a CHECK raises a verdict. -/
theorem interleavedEventsAndTheFold : Obligations.InterleavedEventsAndTheFold := by
  intro s ps hl hps
  refine ⟨⟨(edgesEffect ps s).withPending [], ?run, edgesEffect_acc_of_keepsFold hps s, ?lastUpdate⟩,
    fun before c seed hc => ?restart⟩
  case run => simpa using run_drive ps [] hl
  case lastUpdate =>
    rintro before u after d rfl hu hafter
    exact edgesEffect_flags_of_no_later_check hl (keepsVerdict_of_update hu)
      (fun p hp => not_check_of_transparent (hafter p hp)) before
  case restart =>
    obtain ⟨hclears, hseed⟩ := edgeEffect_of_restart hc
    have hlen : (before ++ c :: ps).length = before.length + 1 + ps.length := by simp; omega
    refine ⟨(edgesEffect (before ++ c :: ps) s).withPending [], ?run, ?acc, fun hcheck =>
      edgesEffect_flags_of_no_later_check hl hclears hcheck before⟩
    case run => simpa [hlen] using run_drive (before ++ c :: ps) [] hl
    case acc => rw [State.withPending_acc, edgesEffect_append, edgesEffect_cons, edgesEffect_acc_of_keepsFold hps, hseed]

/-- Settles O45: a frame folds to 0x00 exactly where its trailer is the fold of its prefix. -/
theorem validationFormsAgree : Obligations.ValidationFormsAgree := by
  intro s pre trailer hl
  obtain ⟨t, ht, htacc, htvld, htok⟩ := stateAfter_trailerForm pre trailer hl
  obtain ⟨u, hu, huacc, huvld, huok⟩ := stateAfter_trailerForm (pre ++ [trailer]) 0x00 hl
  refine ⟨t, u, ht, hu, ?agree, htacc, fun hpass => ?zero⟩
  case agree =>
    rw [reading_eq_pass_iff htvld, reading_eq_pass_iff huvld, htok, huok, fold_append_singleton_eq_zero_iff]
  case zero => rw [huacc, huok.mp ((reading_eq_pass_iff huvld).mp hpass)]

/-- Settles O47: a frame that passes in either form folds to 0x00, and frames that differ in one byte fold to different values. -/
theorem singleByteErrorsAreDetected : Obligations.SingleByteErrorsAreDetected := by
  intro s pre pre' trailer trailer' hdiffer
  have hne := fold_ne_of_differInOneByte hdiffer 0x00
  refine ⟨fun ⟨hpass, hpass'⟩ => hne ?trailer, fun ⟨hpass, hpass'⟩ => hne ?roundTrip⟩
  case trailer =>
    have hzero := (fold_append_singleton_eq_zero_iff 0x00 pre trailer).mpr (fold_eq_of_trailerForm_pass hpass)
    have hzero' := (fold_append_singleton_eq_zero_iff 0x00 pre' trailer').mpr (fold_eq_of_trailerForm_pass hpass')
    rw [hzero, hzero']
  case roundTrip =>
    rw [roundTripForm_eq_trailerForm] at hpass hpass'
    rw [fold_eq_of_trailerForm_pass hpass, fold_eq_of_trailerForm_pass hpass']

/-- Settles O41: VROM is the trailer comparison, and its prefix has 7 bytes. -/
theorem romValidationVerdict : Obligations.RomValidationVerdict :=
  fun _ _ trailer hl hwf => trailerForm_verdict trailer hl (beq_iff_eq.mp hwf)

/-- Settles O42: VSP is the trailer comparison, and its prefix has 8 bytes. -/
theorem scratchpadValidationVerdict : Obligations.ScratchpadValidationVerdict :=
  fun _ _ trailer hl hwf => trailerForm_verdict trailer hl (beq_iff_eq.mp hwf)

/-- Settles O43: VRT is the trailer comparison of the whole frame with 0x00. -/
theorem roundTripValidationVerdict : Obligations.RoundTripValidationVerdict :=
  fun _ _ hl => trailerForm_verdict 0x00 hl rfl

/-- Settles O44: the buffer's own checksum is the trailer that folds to 0x00. -/
theorem appendedChecksumFoldsToZero : Obligations.AppendedChecksumFoldsToZero :=
  fun s bytes => (fold_append_singleton_eq_zero_iff s bytes _).mpr rfl

/-- Settles O46: the fold is linear in the seed and the bytes together, and 0x00 is 0x00 XOR 0x00. -/
theorem foldIsLinear : Obligations.FoldIsLinear :=
  fun _ _ hlen => fold_xor hlen 0x00 0x00

/-- Settles O48: the seed with zero bytes and the bytes with seed 0x00 add up by linearity, and the fold is injective in its
seed. -/
theorem seedEntersByItsOwnTerm : Obligations.SeedEntersByItsOwnTerm := by
  intro s bytes
  refine ⟨?split, fun hs => ?nonzero⟩
  case split =>
    have hlinear := fold_xor (List.length_replicate (n := bytes.length) (a := (0x00 : Byte))) s 0x00
    rw [zipWith_xor_replicate_zero] at hlinear
    simpa using hlinear
  case nonzero =>
    have hne := (fold_injective (List.replicate bytes.length 0x00)).ne hs
    rwa [fold_zero_replicate_zero] at hne

end Sys2Proof.Machine
end

section
/-! PROOFS. The statement of 60_exceptions.md, and when the flags read as CrcError. -/

namespace Sys2Proof.Machine

theorem reading_eq_crcError_iff (s : State) : s.reading = .crcError ↔ s.vld = true ∧ s.ok = false := by
  unfold State.reading
  cases s.vld with
  | false => simp
  | true => cases s.ok <;> simp

/-- Settles O18: CHECK of another byte raises `vld` with `ok` = 0, which is how CrcError reads, and every command has an effect in
every state (`exec_eq`). -/
theorem mismatchIsADataResult : Obligations.MismatchIsADataResult := by
  intro d s hne
  have hvld : (commandEffect (.check d) s).vld = true := rfl
  have hok : (commandEffect (.check d) s).ok = false := beq_false_of_ne hne
  exact ⟨commandEffect (.check d) s, exec_eq _ s, hvld, hok, (reading_eq_crcError_iff _).mpr ⟨hvld, hok⟩, rfl,
    fun i => ⟨commandEffect i _, exec_eq i _⟩⟩

end Sys2Proof.Machine
end

section
/-! PROOFS. Decoding a number (R61, log entry 10), and encoding what a word decodes to (R64). -/

namespace Sys2Proof

theorem decodeNumber_of_lt {n : Nat} (h : n < 1024) : decodeNumber n = .ok (decode (BitVec.ofNat 10 n)) := if_pos h

theorem decodeNumber_of_ge {n : Nat} (h : 1024 ≤ n) : decodeNumber n = .error .notACommandWord :=
  if_neg (Nat.not_lt_of_le h)

/-- A word is not changed by being read in ten bits or more. -/
theorem toNat_mod_two_pow {nbits : Nat} (h : 10 ≤ nbits) (w : Word) : w.toNat % 2 ^ nbits = w.toNat :=
  Nat.mod_eq_of_lt (w.isLt.trans_le (Nat.pow_le_pow_right (by decide) h))

/-- The host's view of the decoder, on a word as a number of at least ten bits, is the decoder. -/
theorem decodeTableWord_toNat {nbits : Nat} (h : 10 ≤ nbits) (w : Word) :
    decodeTableWord nbits w.toNat = some (decode w) := by
  rw [decodeTableWord, toNat_mod_two_pow h, decodeNumber_of_lt w.isLt, BitVec.ofNat_toNat, BitVec.setWidth_eq]

/-- Under an operation select other than NOP's, encoding what a word decodes to gives the word. -/
theorem encode_decode {w : Word} (h : opField w ≠ 0b00) : encode (decode w) = w := by
  have hfields := opField_append_dField w
  rcases decode_cases w with ⟨hop, -⟩ | ⟨hop, hd⟩ | ⟨hop, hd⟩ | ⟨hop, hd⟩
  · exact absurd hop h
  all_goals
    rw [hop] at hfields
    rw [hd]
    exact hfields

end Sys2Proof
end

section
/-! PROOFS. The other statements of 30_encoding.md. -/

namespace Sys2Proof.Machine

/-- Settles O5: the decoder gives back every encoded command, and so does the host's view of it, which reads all ten bits. -/
theorem decodeOfEncodeIsTheCommand : Obligations.DecodeOfEncodeIsTheCommand := by
  intro i _
  refine ⟨decode_encode i, ?_⟩
  rw [decodeTableWord_toNat (by decide), decode_encode]

/-- Settles O6: an operation select other than NOP's is encoded with the byte as it stands, NOP's with 0x00. -/
theorem encodeOfDecodeIsTheWord : Obligations.EncodeOfDecodeIsTheWord := by
  refine fun w => ⟨encode_decode, fun hop => ?nop⟩
  case nop => rw [decode_of_op_nop hop, encode_nop]

/-- Settles O7: the bound of `decodeNumber` is 2 to the width of a command word. -/
theorem onlyTenBitNumbersDecode : Obligations.OnlyTenBitNumbersDecode :=
  fun _ => ⟨decodeNumber_of_lt, decodeNumber_of_ge⟩

/-- Settles O8: the first three words are the encodings of their commands, and the last has NOP's operation select. -/
theorem writtenOutWordsDecode : Obligations.WrittenOutWordsDecode :=
  ⟨decode_encode (.init 0x00), decode_encode (.update 0x28), decode_encode (.check 0x39), decode_of_op_nop (by decide)⟩

end Sys2Proof.Machine
end

section
/-! PROOFS. What an edge answers in each case, refusals included, and what a defined edge leaves in the three registers as R86
writes it. -/

namespace Sys2Proof.Machine

/-! ### Refusals (R30, R31, R131) -/

/-- An edge has no sample exactly where a port is undefined. -/
theorem sample_eq_none_iff (i : Inputs) : i.sample = none ↔ i.rst = none ∨ i.cmdValid = none ∨ i.cmd = none := by
  obtain ⟨driver, _ | rst, _ | cmdValid, _ | cmd⟩ := i <;> simp [Inputs.sample]

theorem rst_of_sample {i : Inputs} {p : Sample} (hp : i.sample = some p) : i.rst = some p.rst :=
  congrArg Inputs.rst (Event.edge.inj (edge_of_sample hp))

theorem onEdge_undefined {i : Inputs} (hp : i.sample = none) (s : State) : onEdge i s = .refused .undefinedInput := by
  simp [onEdge, hp]

theorem onEdge_secondRequester {i : Inputs} {p : Sample} {s : State} (hp : i.sample = some p)
    (hd : i.driver ≠ s.requester) : onEdge i s = .refused .secondRequester := by
  simp [onEdge, hp, hd]

/-- An edge of the block's own requester that resets it or finds it launched leaves its effect. -/
theorem onEdge_edgeEffect {i : Inputs} {p : Sample} {s : State} (hp : i.sample = some p) (hd : i.driver = s.requester)
    (hl : p.rst = true ∨ s.launched = true) : onEdge i s = .next (edgeEffect p s) :=
  (onEdge_cycle hp hd hl).trans (cycle_eq p s)

/-- Everything an edge can answer: one of the three refusals, in the order the model tries them (log entry 6), or its effect. -/
theorem onEdge_cases (i : Inputs) (s : State) :
    (i.sample = none ∧ onEdge i s = .refused .undefinedInput) ∨
    (∃ p, i.sample = some p ∧ i.driver ≠ s.requester ∧ onEdge i s = .refused .secondRequester) ∨
    (∃ p, i.sample = some p ∧ i.driver = s.requester ∧ p.rst = false ∧ s.launched = false ∧
      onEdge i s = .refused .unreset) ∨
    (∃ p, i.sample = some p ∧ i.driver = s.requester ∧ (p.rst = true ∨ s.launched = true) ∧
      onEdge i s = .next (edgeEffect p s)) := by
  cases hp : i.sample with
  | none => exact .inl ⟨rfl, onEdge_undefined hp s⟩
  | some p =>
    refine .inr ?_
    by_cases hd : i.driver = s.requester
    · refine .inr ?_
      by_cases hl : p.rst = true ∨ s.launched = true
      · exact .inr ⟨p, rfl, hd, hl, onEdge_edgeEffect hp hd hl⟩
      · obtain ⟨hr, hl⟩ := not_or.mp hl
        rw [Bool.not_eq_true] at hr hl
        exact .inl ⟨p, rfl, hd, hr, hl, onEdge_unreset hp hd hr hl⟩
    · exact .inl ⟨p, rfl, hd, onEdge_secondRequester hp hd⟩

@[simp] theorem step_edge (i : Inputs) (s : State) (rest : List Event) :
    step (s.withPending (.edge i :: rest)) = onEdge i (s.withPending rest) := rfl

@[simp] theorem step_powerCycle (s : State) (rest : List Event) :
    step (s.withPending (.powerCycle :: rest)) = .next (s.powerUp.withPending rest) := rfl

@[simp] theorem step_withPending_nil (s : State) : step (s.withPending []) = .next (s.withPending []) := rfl

/-! ### Effects (R29, R86) -/

/-- A step at an edge of the block's own requester that resets it or finds it launched leaves the edge's effect. -/
theorem step_drivenBy_eq {p : Sample} {s : State} (rest : List Event) (hl : p.rst = true ∨ s.launched = true) :
    step (s.withPending (p.drivenBy s.requester :: rest)) = .next ((edgeEffect p s).withPending rest) := by
  rw [step_drivenBy rest hl, cycle_eq, edgeEffect_withPending]

theorem accepted_of_rst {p : Sample} (h : p.rst = true) : p.accepted = none := by simp [Sample.accepted, h]

/-- Reset wins over whatever is presented (R142). -/
theorem edgeEffect_of_rst {p : Sample} (h : p.rst = true) (s : State) : edgeEffect p s = s.resetBlock := by
  simp [edgeEffect, accepted_of_rst h, h]

/-- A step at an edge that resets the block. -/
theorem step_reset {p : Sample} (h : p.rst = true) (s : State) (rest : List Event) :
    step (s.withPending (p.drivenBy s.requester :: rest)) = .next (s.resetBlock.withPending rest) := by
  rw [step_drivenBy_eq rest (.inl h), edgeEffect_of_rst h]

/-- A step at an edge that presents a word to a launched block. -/
theorem step_presenting {s : State} (w : Word) (rest : List Event) (hl : s.launched = true) :
    step (s.withPending ((presenting w).drivenBy s.requester :: rest)) = exec (decode w) (s.withPending rest) :=
  step_drivenBy rest (.inr hl)

/-- A step at an edge that presents a command, the first of several, to a launched block. -/
theorem step_present_cons {s : State} (i : Instr) (commands : List Instr) (rest : List Event) (hl : s.launched = true) :
    step (s.withPending (present s.requester (i :: commands) ++ rest)) =
      exec i (s.withPending (present s.requester commands ++ rest)) := by
  have hstep := step_presenting (encode i) (present s.requester commands ++ rest) hl
  rwa [decode_encode] at hstep

theorem commandsEffect_pc (commands : List Instr) (s : State) : (commandsEffect commands s).pc = s.pc + commands.length := by
  induction commands generalizing s with
  | nil => rfl
  | cons i commands ih => rw [commandsEffect_cons, ih, commandEffect_pc, List.length_cons, Nat.add_assoc, Nat.add_comm 1]

@[simp] theorem commandsEffect_launched (commands : List Instr) (s : State) :
    (commandsEffect commands s).launched = s.launched := by
  induction commands generalizing s with
  | nil => rfl
  | cons i commands ih => rw [commandsEffect_cons, ih, commandEffect_launched]

/-- A word as a number of at least ten bits is presented as the word. -/
theorem numberEdge_toNat {nbits : Nat} (h : 10 ≤ nbits) (requester : Nat) (w : Word) :
    numberEdge requester (w.toNat % 2 ^ nbits) = (presenting w).drivenBy requester := by
  have hlt : w.toNat < 2 ^ Config.commandWidth := w.isLt
  rw [toNat_mod_two_pow h, numberEdge, if_pos hlt, BitVec.ofNat_toNat, BitVec.setWidth_eq]
  rfl

theorem edgeEffect_launched_of_accepting {p : Sample} {s : State} (hl : p.rst = true ∨ s.launched = true) :
    (edgeEffect p s).launched = true := by
  rcases hl with hr | hl
  · rw [edgeEffect_of_rst hr]
    rfl
  · exact edgeEffect_launched hl

@[simp] theorem edgeEffect_powerUps (p : Sample) (s : State) : (edgeEffect p s).powerUps = s.powerUps := by
  rcases edgeEffect_cases p s with ⟨-, -, he⟩ | ⟨-, -, he⟩ | ⟨i, -, he⟩ <;> rw [he]
  · rfl
  · cases i <;> rfl

/-- What a word's command writes to the three registers, with `op` and `d` read off the word as a number (R61, R86). -/
theorem commandEffect_decode_registers (w : Word) (s : State) :
    ((commandEffect (decode w) s).acc, (commandEffect (decode w) s).vld, (commandEffect (decode w) s).ok) =
      if w.toNat / 256 = 0 then (s.acc, s.vld, s.ok)
      else if w.toNat / 256 = 1 then (BitVec.ofNat 8 (w.toNat % 256), false, false)
      else if w.toNat / 256 = 2 then (T (s.acc ^^^ BitVec.ofNat 8 (w.toNat % 256)), false, false)
      else (s.acc, true, decide (s.acc = BitVec.ofNat 8 (w.toNat % 256))) := by
  have hd : dField w = BitVec.ofNat 8 (w.toNat % 256) := by
    rw [← dField_toNat, BitVec.ofNat_toNat, BitVec.setWidth_eq]
  rw [← opField_toNat, ← hd]
  rcases decode_cases w with ⟨hop, hw⟩ | ⟨hop, hw⟩ | ⟨hop, hw⟩ | ⟨hop, hw⟩ <;>
    simp [hop, hw, commandEffect, beq_eq_decide]

end Sys2Proof.Machine
end

section
/-! PROOFS. The statements on a single edge of 10_state.md, 40_crc_commands.md and 60_exceptions.md: reset, commands, refusals
and power-up. -/

namespace Sys2Proof.Machine

/-- Settles O19: both edges are resets, and a reset writes the same values over whatever it finds. -/
theorem resetEdgeGivesTheResetState : Obligations.ResetEdgeGivesTheResetState := by
  intro s v v' w w' rest
  refine ⟨step_reset rfl s rest, ?_⟩
  calc run 2 _ = run 1 (s.resetBlock.withPending (Sample.drivenBy ⟨true, v', w'⟩ s.requester :: rest)) :=
        run_succ_of_step 1 (step_reset rfl s _)
    _ = .next (s.resetBlock.resetBlock.withPending rest) := run_succ_of_step 0 (step_reset rfl s.resetBlock rest)

/-- Settles O20: the registers are read off the definition, and R33's invariant holds after every reset. -/
theorem resetStateHoldsItsValues : Obligations.ResetStateHoldsItsValues :=
  ⟨rfl, rfl, rfl, rfl, rfl, VerdictInv.resetBlock State.reset⟩

/-- Settles O21: a presented word is neither a reset nor an idle edge. -/
theorem stepRunsTheDecodedCommand : Obligations.StepRunsTheDecodedCommand :=
  fun _ w rest hl => step_presenting w rest hl

/-- Settles O23: the edge leaves its effect, whose registers follow the word as a number; the refusals are those of
`onEdge_cases`. -/
theorem edgeIsTheCycleFunction : Obligations.EdgeIsTheCycleFunction := by
  refine ⟨fun s p rest hl => ⟨_, step_drivenBy_eq rest hl, ?registers, rfl, ?index, edgeEffect_launched_of_accepting hl,
    edgeEffect_requester p s, rfl, edgeEffect_powerUps p s⟩, fun s i rest r h => ?refusal⟩
  case registers =>
    cases hr : p.rst with
    | true => simp [edgeEffect_of_rst hr]
    | false =>
      cases hv : p.cmdValid with
      | false => simp [edgeEffect, Sample.accepted, hr, hv]
      | true =>
        have ha : p.accepted = some (decode p.cmd) := by simp [Sample.accepted, hr, hv]
        simpa [edgeEffect_of_accepted ha] using commandEffect_decode_registers p.cmd s
  case index =>
    rw [State.withPending_pc, edgeEffect_pc, Sample.accepted]
    cases p.rst <;> cases p.cmdValid <;> rfl
  case refusal =>
    rw [step_edge] at h
    rcases onEdge_cases i (s.withPending rest) with ⟨hp, -⟩ | ⟨p, -, hd, -⟩ | ⟨p, hp, -, hr, hl, -⟩ | ⟨p, -, -, -, he⟩
    · exact .inl ((sample_eq_none_iff i).mp hp)
    · exact .inr (.inr hd)
    · exact .inr (.inl ⟨hl, hr ▸ rst_of_sample hp⟩)
    · rw [he] at h
      cases h

/-- Settles O24: the first step is refused, and the run with it. -/
theorem runsOutsideTheContractAreRefused : Obligations.RunsOutsideTheContractAreRefused := by
  refine ⟨fun s p rest k hl hr => ?unreset, fun s i rest k hundef => ?undefined⟩
  case unreset => exact run_succ_of_refused k (step_unreset rest hr hl)
  case undefined => exact run_succ_of_refused k (onEdge_undefined ((sample_eq_none_iff i).mpr hundef) _)

/-- Settles O25: the driver is compared before anything else of a defined edge is read. -/
theorem secondRequesterIsRefused : Obligations.SecondRequesterIsRefused :=
  fun _ p other _ hne => onEdge_secondRequester (sample_ports other p) hne

/-- Settles O26: a power-up leaves the block not launched, where an edge without reset is refused and one with reset resets. -/
theorem powerUpNeedsAReset : Obligations.PowerUpNeedsAReset := by
  refine fun s rest => ⟨step_withPending_nil s, _, step_powerCycle s rest, rfl, rfl, rfl, rfl, fun p after => ⟨?_, ?_⟩⟩
  · exact fun hr => step_unreset after hr rfl
  · exact fun hr => step_reset hr _ after

/-- Settles O27: the placed number is presented as the word it came from, to a launched block. -/
theorem placedWordRunsNext : Obligations.PlacedWordRunsNext := by
  intro s w
  rw [State.withFetchWord, numberEdge_toNat (by decide)]
  exact step_presenting (s := { s with launched := true }) w s.pending rfl

end Sys2Proof.Machine
end

section
/-! PROOFS. What a step takes off the schedule, and what of an edge changes `acc`. -/

namespace Sys2Proof.Machine

theorem step_of_pending_nil {s : State} (h : s.pending = []) : step s = .next s := by
  rw [← s.withPending_self, h]
  rfl

/-- The length of the requester's list, with its schedule's first event apart. -/
theorem listLength_withPending_cons (s : State) (e : Event) (rest : List Event) :
    (s.withPending (e :: rest)).listLength = s.pc + e.accepted.toList.length + (rest.filterMap Event.accepted).length := by
  rw [State.listLength, State.withPending_pc, State.withPending_pending, List.filterMap_cons]
  cases e.accepted <;> simp [Nat.add_assoc, Nat.add_comm 1]

/-- A command that changes `acc` is an INIT or an UPDATE. -/
theorem init_or_update_of_acc_ne {i : Instr} {s : State} (h : (commandEffect i s).acc ≠ s.acc) :
    ∃ d, i = .init d ∨ i = .update d := by
  cases i with
  | nop => exact absurd rfl h
  | init d => exact ⟨d, .inl rfl⟩
  | update d => exact ⟨d, .inr rfl⟩
  | check d => exact absurd rfl h

/-- An edge that changes `acc` is a reset, or accepts an INIT or an UPDATE. -/
theorem writer_of_edgeEffect_acc_ne {p : Sample} {s : State} (h : (edgeEffect p s).acc ≠ s.acc) :
    p.rst = true ∨ ∃ d, p.accepted = some (.init d) ∨ p.accepted = some (.update d) := by
  rcases edgeEffect_cases p s with ⟨hr, -, -⟩ | ⟨-, -, he⟩ | ⟨i, ha, he⟩
  · exact .inl hr
  · exact absurd (congrArg State.acc he) h
  · rw [he] at h
    rw [ha]
    obtain ⟨d, rfl | rfl⟩ := init_or_update_of_acc_ne h
    · exact .inr ⟨d, .inl rfl⟩
    · exact .inr ⟨d, .inr rfl⟩

end Sys2Proof.Machine
end

section
/-! PROOFS. The statements of 10_state.md on what a step keeps, and commands at consecutive edges (70_reset_and_hazards.md
section 3). -/

namespace Sys2Proof.Machine

/-- Settles O29: the first event leaves the schedule, and is counted by the index where it gets a command accepted. -/
theorem stepKeepsTheListLength : Obligations.StepKeepsTheListLength := by
  intro s t h
  cases hp : s.pending with
  | nil =>
    rw [step_of_pending_nil hp] at h
    cases h; rfl
  | cons e rest =>
    rw [← s.withPending_self, hp] at h ⊢
    obtain ⟨hpend, hpc⟩ := step_pending_pc h
    rw [listLength_withPending_cons, State.listLength, hpend, hpc]

/-- Settles O31, by what a step can be, and an edge's part by `writer_of_edgeEffect_acc_ne`. -/
theorem onlyResetInitUpdateChangeTheAccumulator : Obligations.OnlyResetInitUpdateChangeTheAccumulator := by
  intro s t h hne
  rcases step_next_edgeEffect h with ⟨-, rfl⟩ | ⟨rest, hp, -⟩ | ⟨p, rest, hp, rfl⟩
  · exact absurd rfl hne
  · exact .inl ⟨rest, hp⟩
  · exact .inr ⟨p, rest, hp, writer_of_edgeEffect_acc_ne hne⟩

/-- Settles O32, by what a step can be: an edge leaves `vld` = 1 exactly where it keeps a verdict or accepts a CHECK
(`edgeEffect_vld`). -/
theorem onlyCheckRaisesTheVerdict : Obligations.OnlyCheckRaisesTheVerdict := by
  intro s t h
  rcases step_next_edgeEffect h with ⟨-, rfl⟩ | ⟨rest, hp, -⟩ | ⟨p, rest, hp, rfl⟩
  · exact ⟨fun hs ht => by simp [hs] at ht, fun hs ht => by simp [hs] at ht⟩
  · exact ⟨fun _ _ => .inl ⟨rest, hp⟩, fun _ _ => .inl ⟨rest, hp⟩⟩
  · have hvld := edgeEffect_vld p s
    refine ⟨fun hs ht => .inr ?raise, fun hs ht => .inr ⟨p, rest, hp, ?clear⟩⟩
    case raise =>
      obtain ⟨hs', -⟩ | ⟨d, ha⟩ := hvld.mp ht
      · simp [hs] at hs'
      · refine ⟨p, rest, d, hp, ha, ?_⟩
        rw [edgeEffect_of_accepted ha, ← beq_eq_decide]
        exact ⟨rfl, rfl⟩
    case clear =>
      refine Bool.eq_false_of_not_eq_true fun hk => ?_
      have ht' := hvld.mpr (.inl ⟨hs, hk⟩)
      rw [State.withPending_vld, ht'] at ht
      cases ht

/-- Settles O36: the run is the commands' effects one after another (`run_present`), and each advances the index by one. -/
theorem backToBackCommandsNeverStall : Obligations.BackToBackCommandsNeverStall := by
  refine ⟨fun s is rest hl => ?first, fun s u i is rest hl hu => ?second⟩
  case first =>
    exact ⟨_, run_present is rest hl, rfl, commandsEffect_pc is s, (commandsEffect_launched is s).trans hl⟩
  case second =>
    refine ⟨?_, run_succ_of_step is.length ((step_present_cons i is rest hl).trans hu)⟩
    rw [exec_eq] at hu
    cases hu
    simp

end Sys2Proof.Machine
end

section
/-! PROOFS. No hidden state (R28): the command index and the count of power-ups enter no edge, so a run is the same, up to these
two, whatever they start from. -/

namespace Sys2Proof.Machine

/-- The state with its two counters, which no output shows, put to 0. -/
def State.forgetCounters (s : State) : State := { s with pc := 0, powerUps := 0 }

/-- An outcome up to the two counters of its next state. -/
def forgetCountersOf : Host.Outcome State Fault Refusal → Host.Outcome State Fault Refusal
  | .next t => .next t.forgetCounters
  | .fault f => .fault f
  | .refused r => .refused r

@[simp] theorem forgetCountersOf_next (t : State) : forgetCountersOf (.next t) = .next t.forgetCounters := rfl

@[simp] theorem forgetCountersOf_refused (r : Refusal) : forgetCountersOf (.refused r) = .refused r := rfl

theorem eq_next_of_forgetCountersOf {o : Host.Outcome State Fault Refusal} {t : State}
    (h : forgetCountersOf o = .next t) : ∃ u, o = .next u ∧ u.forgetCounters = t := by
  cases o with
  | next u => exact ⟨u, rfl, Host.Outcome.next.inj h⟩
  | fault f => cases h
  | refused r => cases h

theorem eq_refused_of_forgetCountersOf {o : Host.Outcome State Fault Refusal} {r : Refusal}
    (h : forgetCountersOf o = .refused r) : o = .refused r := by
  cases o with
  | next u => cases h
  | fault f => cases h
  | refused r' => exact h

@[simp] theorem State.forgetCounters_outputs (s : State) : s.forgetCounters.outputs = s.outputs := rfl

@[simp] theorem State.forgetCounters_pending (s : State) : s.forgetCounters.pending = s.pending := rfl

/-- States that agree in all but the counters show the same outputs. -/
theorem outputs_of_forgetCounters_eq {s₁ s₂ : State} (h : s₁.forgetCounters = s₂.forgetCounters) : s₁.outputs = s₂.outputs := by
  rw [← s₁.forgetCounters_outputs, h, State.forgetCounters_outputs]

theorem forgetCounters_withPending_eq {s₁ s₂ : State} (houtputs : s₁.outputs = s₂.outputs)
    (hlaunched : s₁.launched = s₂.launched) (hrequester : s₁.requester = s₂.requester) (es : List Event) :
    (s₁.withPending es).forgetCounters = (s₂.withPending es).forgetCounters := by
  obtain ⟨hacc, hvld, hok⟩ := Outputs.mk.inj houtputs
  simp [State.forgetCounters, State.withPending, hacc, hvld, hok, hlaunched, hrequester]

/-! ### One step -/

theorem commandEffect_forgetCounters (i : Instr) (s : State) :
    (commandEffect i s.forgetCounters).forgetCounters = (commandEffect i s).forgetCounters := by
  cases i <;> rfl

theorem edgeEffect_forgetCounters (p : Sample) (s : State) :
    (edgeEffect p s.forgetCounters).forgetCounters = (edgeEffect p s).forgetCounters := by
  unfold edgeEffect
  split
  · exact commandEffect_forgetCounters _ s
  · split <;> rfl

/-- The counters do not enter what an edge answers: each refusal and each effect is decided by the other fields. -/
theorem onEdge_forgetCounters (i : Inputs) (s : State) :
    forgetCountersOf (onEdge i s.forgetCounters) = forgetCountersOf (onEdge i s) := by
  rcases onEdge_cases i s with ⟨hp, he⟩ | ⟨p, hp, hd, he⟩ | ⟨p, hp, hd, hr, hl, he⟩ | ⟨p, hp, hd, hl, he⟩ <;> rw [he]
  · rw [onEdge_undefined hp]
  · rw [onEdge_secondRequester (s := s.forgetCounters) hp hd]
  · rw [onEdge_unreset (s := s.forgetCounters) hp hd hr hl]
  · rw [onEdge_edgeEffect (s := s.forgetCounters) hp hd hl]
    exact congrArg Host.Outcome.next (edgeEffect_forgetCounters p s)

/-- Nor do they enter a step, but a power-up's, which reads its free values at their count (log entry 2). -/
theorem step_forgetCounters {s : State} (h : .powerCycle ∉ s.pending) :
    forgetCountersOf (step s.forgetCounters) = forgetCountersOf (step s) := by
  cases hp : s.pending with
  | nil =>
    rw [step_of_pending_nil hp, step_of_pending_nil (s := s.forgetCounters) hp]
    rfl
  | cons e rest =>
    cases e with
    | powerCycle => simp [hp] at h
    | edge i =>
      rw [← s.withPending_self, hp]
      exact onEdge_forgetCounters i (s.withPending rest)

theorem step_congr_of_forgetCounters {s₁ s₂ : State} (h : s₁.forgetCounters = s₂.forgetCounters)
    (hpower : .powerCycle ∉ s₁.pending) : forgetCountersOf (step s₁) = forgetCountersOf (step s₂) := by
  have hpending : s₁.pending = s₂.pending := by rw [← s₁.forgetCounters_pending, h, State.forgetCounters_pending]
  rw [← step_forgetCounters hpower, h, step_forgetCounters (hpending ▸ hpower)]

/-- A step takes one event off the schedule. -/
theorem pending_of_step {s t : State} (h : step s = .next t) : t.pending = s.pending.tail := by
  rcases step_next_edgeEffect h with ⟨hp, rfl⟩ | ⟨rest, hp, rfl⟩ | ⟨p, rest, hp, rfl⟩
  · rw [hp, List.tail_nil]
  · rw [hp, List.tail_cons, State.withPending_pending]
  · rw [hp, List.tail_cons, State.withPending_pending]

/-! ### Runs -/

/-- Two runs without a power-up from states that agree in all but the counters answer alike, step by step. -/
theorem run_congr_of_forgetCounters (k : Nat) {s₁ s₂ : State} (h : s₁.forgetCounters = s₂.forgetCounters)
    (hpower : .powerCycle ∉ s₁.pending) : forgetCountersOf (run k s₁) = forgetCountersOf (run k s₂) := by
  induction k generalizing s₁ s₂ with
  | zero => exact congrArg Host.Outcome.next h
  | succ k ih =>
    have hstep := step_congr_of_forgetCounters h hpower
    cases hs : step s₁ with
    | next u₁ =>
      rw [hs] at hstep
      obtain ⟨u₂, hs₂, hu⟩ := eq_next_of_forgetCountersOf hstep.symm
      rw [run_succ_of_step k hs, run_succ_of_step k hs₂]
      refine ih hu.symm fun hmem => hpower (List.mem_of_mem_tail ?_)
      rwa [← pending_of_step hs]
    | fault f => cases f
    | refused r =>
      rw [hs] at hstep
      rw [run_succ_of_refused k hs, run_succ_of_refused k (eq_refused_of_forgetCountersOf hstep.symm)]

/-- Settles O35: the two blocks differ in their counters at most, which no step without a power-up reads. -/
theorem outputsDependOnRegistersAndInputsOnly : Obligations.OutputsDependOnRegistersAndInputsOnly := by
  intro s₁ s₂ es k houtputs hlaunched hrequester hpower
  have hrun := run_congr_of_forgetCounters k (forgetCounters_withPending_eq houtputs hlaunched hrequester es) hpower
  refine ⟨fun t₁ ht₁ => ?next, fun r hr => ?refused⟩
  case next =>
    rw [ht₁] at hrun
    obtain ⟨t₂, ht₂, ht⟩ := eq_next_of_forgetCountersOf hrun.symm
    exact ⟨t₂, ht₂, outputs_of_forgetCounters_eq ht.symm⟩
  case refused =>
    rw [hr] at hrun
    exact eq_refused_of_forgetCountersOf hrun.symm

end Sys2Proof.Machine
end

section
/-! PROOFS. Which runs never stop (40_crc_commands.md section 5, 60_exceptions.md). -/

namespace Sys2Proof.Machine

/-- However many steps are taken, the run answers a next state. -/
def NeverStops (s : State) : Prop := ∀ k, ∃ t, run k s = .next t

theorem neverStops_iff_of_step {s u : State} (h : step s = .next u) : NeverStops s ↔ NeverStops u := by
  refine ⟨fun hs k => ?_, fun hu k => ?_⟩
  · rw [← run_succ_of_step k h]
    exact hs (k + 1)
  · cases k with
    | zero => exact ⟨s, rfl⟩
    | succ k =>
      rw [run_succ_of_step k h]
      exact hu k

theorem not_neverStops_of_refused {s : State} {r : Refusal} (h : step s = .refused r) : ¬ NeverStops s := by
  intro hs
  obtain ⟨t, ht⟩ := hs 1
  rw [run_succ_of_refused 0 h] at ht
  cases ht

theorem cleanSchedule_of_undefined {i : Inputs} (hp : i.sample = none) (requester : Nat) (launched : Bool) (es : List Event) :
    cleanSchedule requester launched (.edge i :: es) = false := by
  simp [cleanSchedule, hp]

theorem cleanSchedule_of_sample {i : Inputs} {p : Sample} (hp : i.sample = some p) (requester : Nat) (launched : Bool)
    (es : List Event) :
    cleanSchedule requester launched (.edge i :: es) =
      (i.driver == requester && (p.rst || launched) && cleanSchedule requester true es) := by
  simp [cleanSchedule, hp]

/-- A schedule is clean exactly where each of its events lets the run go on: an edge by the branch of `onEdge_cases` it takes, and
a power-up by asking the rest of the schedule for a reset. -/
theorem cleanSchedule_iff_neverStops (es : List Event) (s : State) :
    cleanSchedule s.requester s.launched es = true ↔ NeverStops (s.withPending es) := by
  induction es generalizing s with
  | nil => exact iff_of_true rfl fun k => ⟨_, run_withPending_nil k s⟩
  | cons e rest ih =>
    cases e with
    | powerCycle =>
      rw [neverStops_iff_of_step (step_powerCycle s rest)]
      exact ih s.powerUp
    | edge i =>
      rcases onEdge_cases i (s.withPending rest) with
        ⟨hp, he⟩ | ⟨p, hp, hd, he⟩ | ⟨p, hp, hd, hr, hl, he⟩ | ⟨p, hp, hd, hl, he⟩
      · exact iff_of_false (by simp [cleanSchedule_of_undefined hp]) (not_neverStops_of_refused he)
      · rw [State.withPending_requester] at hd
        exact iff_of_false (by simp [cleanSchedule_of_sample hp, hd]) (not_neverStops_of_refused he)
      · rw [State.withPending_launched] at hl
        exact iff_of_false (by simp [cleanSchedule_of_sample hp, hr, hl]) (not_neverStops_of_refused he)
      · rw [State.withPending_requester] at hd
        rw [State.withPending_launched] at hl
        rw [edgeEffect_withPending] at he
        have hrest := ih (edgeEffect p s)
        rw [edgeEffect_requester, edgeEffect_launched_of_accepting hl] at hrest
        rw [neverStops_iff_of_step (s := s.withPending (.edge i :: rest)) he, ← hrest, cleanSchedule_of_sample hp]
        simp [hd, hl]

/-- Settles O37, by induction on the schedule (`cleanSchedule_iff_neverStops`). -/
theorem runsNeverStopExactlyOnCleanSchedules : Obligations.RunsNeverStopExactlyOnCleanSchedules :=
  fun s => cleanSchedule_iff_neverStops s.pending s

end Sys2Proof.Machine
end

section
/-! PROOFS. A frame's verdict under the requester's duties (R148): idle edges and NOPs leave all but the command index, so a
schedule leaves what its commands without NOPs would. -/

namespace Sys2Proof.Machine

theorem commandEffect_congr_of_forgetCounters (i : Instr) {s₁ s₂ : State} (h : s₁.forgetCounters = s₂.forgetCounters) :
    (commandEffect i s₁).forgetCounters = (commandEffect i s₂).forgetCounters := by
  rw [← commandEffect_forgetCounters, h, commandEffect_forgetCounters]

@[simp] theorem commandEffect_nop_forgetCounters (s : State) : (commandEffect .nop s).forgetCounters = s.forgetCounters := rfl

/-- An edge that is no reset leaves what its own work does, an idle edge's and a NOP's being none, up to the index. -/
theorem edgeEffect_eq_commandsEffect_workOf {p : Sample} (hr : p.rst = false) {s₁ s₂ : State}
    (h : s₁.forgetCounters = s₂.forgetCounters) :
    (edgeEffect p s₁).forgetCounters = (commandsEffect (workOf [p]) s₂).forgetCounters := by
  rcases edgeEffect_cases p s₁ with ⟨hr', -, -⟩ | ⟨-, ha, he⟩ | ⟨i, ha, he⟩
  · simp [hr] at hr'
  · simpa [he, workOf, ha] using h
  · cases i with
    | nop => simpa [he, workOf, ha] using h
    | _ => simpa [he, workOf, ha] using commandEffect_congr_of_forgetCounters _ h

theorem workOf_cons (p : Sample) (ps : List Sample) : workOf (p :: ps) = workOf [p] ++ workOf ps := by
  rw [workOf, workOf, workOf, ← List.filter_append, ← List.filterMap_append, List.singleton_append]

/-- Edges without a reset leave what their work does, up to the index. -/
theorem edgesEffect_eq_commandsEffect_workOf {ps : List Sample} (hr : ∀ p ∈ ps, p.rst = false) {s₁ s₂ : State}
    (h : s₁.forgetCounters = s₂.forgetCounters) :
    (edgesEffect ps s₁).forgetCounters = (commandsEffect (workOf ps) s₂).forgetCounters := by
  induction ps generalizing s₁ s₂ with
  | nil => exact h
  | cons p ps ih =>
    obtain ⟨hp, hps⟩ := List.forall_mem_cons.mp hr
    rw [edgesEffect_cons, workOf_cons, commandsEffect_append]
    exact ih hps (edgeEffect_eq_commandsEffect_workOf hp h)

/-- UPDATEs fold their bytes into `acc`, and a CHECK after them compares the fold. -/
theorem commandsEffect_updates_check_outputs (bytes : List Byte) (expected : Byte) (s : State) :
    (commandsEffect (bytes.map .update ++ [.check expected]) s).outputs =
      ⟨fold s.acc bytes, true, fold s.acc bytes == expected⟩ := by
  induction bytes generalizing s with
  | nil => rfl
  | cons b bytes ih => exact ih (commandEffect (.update b) s)

/-- The work of a schedule that meets the duties, after an INIT or from `acc` = 0x00, is UPDATEs and a CHECK of a fold that matches
exactly where the trailer is the CRC of the bytes before it. -/
theorem exists_updates_check_of_frameDuties {s : State} {pre : List Byte} {trailer : Byte} {ps : List Sample}
    (h : FrameDuties s pre trailer ps) :
    ∃ (bytes : List Byte) (expected : Byte) (s' : State), s'.acc = 0x00 ∧
      commandsEffect (workOf ps) s = commandsEffect (bytes.map .update ++ [.check expected]) s' ∧
      (fold 0x00 bytes = expected ↔ fold 0x00 pre = trailer) := by
  have hzero := fold_append_singleton_eq_zero_iff 0x00 pre trailer
  obtain ⟨-, hwork | hwork | ⟨hacc, hwork | hwork⟩⟩ := h <;> rw [hwork]
  · exact ⟨pre, trailer, commandEffect (.init 0x00) s, rfl, rfl, Iff.rfl⟩
  · exact ⟨pre ++ [trailer], 0x00, commandEffect (.init 0x00) s, rfl, rfl, hzero⟩
  · exact ⟨pre, trailer, s, hacc, rfl, Iff.rfl⟩
  · exact ⟨pre ++ [trailer], 0x00, s, hacc, rfl, hzero⟩

/-- Settles O49: the schedule leaves what its work does, and that ends in a CHECK of the frame's fold from 0x00. -/
theorem metDutiesGiveTheTrueVerdict : Obligations.MetDutiesGiveTheTrueVerdict := by
  intro s pre trailer ps hl hduties
  have hreset : ∀ p ∈ ps, p.rst = false := hduties.1
  obtain ⟨bytes, expected, s', hacc, hwork, hiff⟩ := exists_updates_check_of_frameDuties hduties
  have hout : (edgesEffect ps s).outputs = ⟨fold 0x00 bytes, true, fold 0x00 bytes == expected⟩ := by
    rw [outputs_of_forgetCounters_eq (edgesEffect_eq_commandsEffect_workOf hreset rfl), hwork,
      commandsEffect_updates_check_outputs, hacc]
  obtain ⟨-, hvld, hok⟩ := Outputs.mk.inj hout
  refine ⟨(edgesEffect ps s).withPending [], by simpa using run_drive ps [] hl, hvld, ?_⟩
  rw [State.withPending_ok, hok, beq_iff_eq, hiff]

end Sys2Proof.Machine
end

section
/-! PROOFS. The LSB-first rounds as the mirror image of the MSB-first ones (R7, R42). -/

namespace Sys2Proof.Machine

/-- `P_refl` is `P_norm` with its bits in reverse order (R7). -/
theorem polyRefl_eq_reverse_polyNorm : Config.polyRefl = Config.polyNorm.reverse := by decide

/-- One round in the normal form, bit by bit: the bits move up by one, and a 1 that falls out flips the bits of `P_norm`. -/
theorem normalRound_getLsbD (c : Byte) {k : Nat} (hk : k < 8) :
    (normalRound c).getLsbD k = ((decide (0 < k) && c.getLsbD (k - 1)) ^^ (c.getLsbD 7 && Config.polyNorm.getLsbD k)) := by
  have hshift : (c <<< 1).getLsbD k = (decide (0 < k) && c.getLsbD (k - 1)) := by
    rw [BitVec.getLsbD_shiftLeft, decide_eq_true hk, Bool.true_and]
    simp [Nat.pos_iff_ne_zero]
  unfold normalRound
  cases c.getLsbD 7 <;> simp [hshift]

theorem getLsbD_reverse_byte (c : Byte) (k : Nat) : c.reverse.getLsbD k = (decide (k < 8) && c.getLsbD (7 - k)) := by
  rw [BitVec.getLsbD_reverse, BitVec.getMsbD_eq_getLsbD]

/-- One round of the mirror image is the mirror image of one round: bit by bit, `7 - k` for `k`. -/
theorem crcRound_reverse (c : Byte) : crcRound c.reverse = (normalRound c).reverse := by
  apply BitVec.eq_of_getLsbD_eq
  intro k hk
  have hinside : decide (k + 1 < 8) = decide (0 < 7 - k) := decide_eq_decide.mpr (by omega)
  have hnext : 7 - (k + 1) = 7 - k - 1 := by omega
  rw [crcRound_getLsbD, polyRefl_eq_reverse_polyNorm]
  simp only [getLsbD_reverse_byte, normalRound_getLsbD c (show 7 - k < 8 by omega), hk, hinside, hnext]
  rfl

theorem crcRounds_reverse (n : Nat) (c : Byte) : crcRounds n c.reverse = (normalRounds n c).reverse := by
  induction n generalizing c with
  | zero => rfl
  | succ n ih => rw [crcRounds, crcRound_reverse, ih, normalRounds]

/-- Settles O12: the constants by their bits, and the rounds by induction on their number (`crcRounds_reverse`). -/
theorem reflectedStepMirrorsThePolynomial : Obligations.ReflectedStepMirrorsThePolynomial := by
  refine ⟨by decide, fun k hk => ?_, crcRounds_reverse 8⟩
  rw [polyRefl_eq_reverse_polyNorm, getLsbD_reverse_byte, decide_eq_true hk, Bool.true_and]

end Sys2Proof.Machine
end

section
/-! PROOFS. The assembler on a command's own line (R68): its words, its mnemonic in any case, and its literal. -/

namespace Sys2Proof.Machine

/-! ### A line's words -/

/-- A character that stands in a word: no blank, and not the `;` that begins a comment. -/
def isWordChar (c : Char) : Bool := !isBlank c && c != ';'

theorem not_isBlank_of_isWordChar {c : Char} (h : isWordChar c = true) : isBlank c = false := by
  simpa using (Bool.and_eq_true_iff.mp h).1

/-- Characters without a blank are read into the current word. -/
theorem wordsFrom_append {chars : List Char} (h : ∀ c ∈ chars, isWordChar c = true) (word rest : List Char) :
    wordsFrom word (chars ++ rest) = wordsFrom (word ++ chars) rest := by
  induction chars generalizing word with
  | nil => simp
  | cons c chars ih =>
    obtain ⟨hc, hchars⟩ := List.forall_mem_cons.mp h
    simp [wordsFrom, not_isBlank_of_isWordChar hc, ih hchars]

theorem wordsFrom_end {word : List Char} (h : word ≠ []) : wordsFrom word [] = [word] := by
  simp [wordsFrom, h]

theorem wordsFrom_blank {word : List Char} (h : word ≠ []) (rest : List Char) :
    wordsFrom word (' ' :: rest) = word :: wordsFrom [] rest := by
  simp [wordsFrom, isBlank, h]

/-- A comment, and the `;` before it, are dropped. -/
theorem dropComment_append {text : List Char} (h : ∀ c ∈ text, c ≠ ';') (comment : List Char) :
    dropComment (text ++ ';' :: comment) = text := by
  rw [dropComment, List.takeWhile_append_of_pos (by simpa using h)]
  simp

theorem dropComment_eq_self {text : List Char} (h : ∀ c ∈ text, c ≠ ';') : dropComment text = text :=
  List.takeWhile_eq_self_iff.mpr (by simpa using h)

/-! ### The mnemonic -/

/-- Upper case leaves a blank and the `;` as they stand, so neither becomes a letter. -/
theorem isWordChar_of_upperCase {c : Char} (h : isWordChar (upperCase c) = true) : isWordChar c = true := by
  by_contra hc
  have hcases : c = ' ' ∨ c = '\t' ∨ c = ';' := by simpa [isWordChar, isBlank, or_assoc, imp_iff_not_or] using hc
  rcases hcases with rfl | rfl | rfl <;> exact absurd h (by decide)

theorem isWordChar_mnemonicText (i : Instr) : ∀ c ∈ mnemonicText i, isWordChar c = true :=
  List.all_eq_true.mp (by cases i <;> rfl)

/-- A mnemonic in any case is one word of a line. -/
theorem isWordChar_of_map_upperCase {i : Instr} {mnemonic : List Char} (h : mnemonic.map upperCase = mnemonicText i) :
    ∀ c ∈ mnemonic, isWordChar c = true :=
  fun _ hc => isWordChar_of_upperCase (isWordChar_mnemonicText i _ (h ▸ List.mem_map_of_mem hc))

theorem ne_nil_of_map_upperCase {i : Instr} {mnemonic : List Char} (h : mnemonic.map upperCase = mnemonicText i) :
    mnemonic ≠ [] := by
  rintro rfl
  cases i <;> cases h

/-! ### The literal -/

/-- The character of a hexadecimal digit stands in a word and has the digit's value. -/
theorem hexChar_digit : ∀ n < 16, isWordChar (hexChar n) = true ∧ hexDigit (hexChar n) = some n := by decide

theorem isWordChar_byteText (b : Byte) : ∀ c ∈ byteText b, isWordChar c = true := by
  have hb := b.isLt
  obtain ⟨hhigh, -⟩ := hexChar_digit (b.toNat / 16) (by omega)
  obtain ⟨hlow, -⟩ := hexChar_digit (b.toNat % 16) (by omega)
  have hprefix : isWordChar '0' = true ∧ isWordChar 'x' = true := by decide
  simpa [byteText, hhigh, hlow] using hprefix

theorem literal_byteText (b : Byte) : literal (byteText b) = some b.toNat := by
  have hb := b.isLt
  obtain ⟨-, hhigh⟩ := hexChar_digit (b.toNat / 16) (by omega)
  obtain ⟨-, hlow⟩ := hexChar_digit (b.toNat % 16) (by omega)
  have hvalue : (0 * 16 + b.toNat / 16) * 16 + b.toNat % 16 = b.toNat := by omega
  simpa [byteText, literal, digitsFrom, hhigh, hlow] using hvalue

theorem imm8_byteText (b : Byte) : imm8 (byteText b) = .ok b := by
  simp [imm8, literal_byteText, b.isLt]

/-! ### A command's line -/

/-- The operand words of a command's line. -/
def operandWords : Instr → List (List Char)
  | .nop => []
  | .init seed => [byteText seed]
  | .update byte => [byteText byte]
  | .check expected => [byteText expected]

theorem commandOf_mnemonicText (i : Instr) : commandOf (mnemonicText i) (operandWords i) = .ok i := by
  cases i <;> simp [commandOf, mnemonicText, operandWords, withImm8, imm8_byteText]

/-- After its mnemonic a command's line holds its operand words, whatever has been read before them. -/
theorem wordsFrom_operandText (i : Instr) {mnemonic : List Char} (h : mnemonic ≠ []) :
    wordsFrom mnemonic (operandText i) = mnemonic :: operandWords i := by
  have hbyte (b : Byte) : wordsFrom mnemonic (' ' :: byteText b) = [mnemonic, byteText b] := by
    have hread := wordsFrom_append (isWordChar_byteText b) [] []
    rw [List.append_nil, List.nil_append, wordsFrom_end (by simp [byteText])] at hread
    rw [wordsFrom_blank h, hread]
  cases i with
  | nop => exact wordsFrom_end h
  | init d => exact hbyte d
  | update d => exact hbyte d
  | check d => exact hbyte d

theorem ne_semicolon_of_isWordChar {c : Char} (h : isWordChar c = true) : c ≠ ';' := by
  rintro rfl
  exact absurd h (by decide)

theorem ne_semicolon_of_mem_operandText {i : Instr} {c : Char} (h : c ∈ operandText i) : c ≠ ';' := by
  have hbyte {b : Byte} (h : c ∈ ' ' :: byteText b) : c ≠ ';' := by
    rcases List.mem_cons.mp h with rfl | hc
    · decide
    · exact ne_semicolon_of_isWordChar (isWordChar_byteText b c hc)
  cases i with
  | nop => cases h
  | init d => exact hbyte h
  | update d => exact hbyte h
  | check d => exact hbyte h

/-- A line whose text before the comment is a mnemonic in any case and the command's operand. -/
theorem assembleLine_of_dropComment {i : Instr} {mnemonic line : List Char}
    (hmnemonic : mnemonic.map upperCase = mnemonicText i) (hline : dropComment line = mnemonic ++ operandText i) :
    assembleLine line = .ok (some (encode i)) := by
  rw [assembleLine, hline, wordsFrom_append (isWordChar_of_map_upperCase hmnemonic), List.nil_append,
    wordsFrom_operandText i (ne_nil_of_map_upperCase hmnemonic)]
  simp [hmnemonic, commandOf_mnemonicText]

/-- Settles O50: neither the mnemonic nor the operand holds a `;`, so the line without its comment is these two. -/
theorem linesAssembleToTheirWords : Obligations.LinesAssembleToTheirWords := by
  intro i mnemonic comment h
  have htext : ∀ c ∈ mnemonic ++ operandText i, c ≠ ';' := by
    intro c hc
    rcases List.mem_append.mp hc with hc | hc
    · exact ne_semicolon_of_isWordChar (isWordChar_of_map_upperCase h c hc)
    · exact ne_semicolon_of_mem_operandText hc
  exact ⟨assembleLine_of_dropComment h (dropComment_eq_self htext),
    assembleLine_of_dropComment h (dropComment_append htext comment)⟩

end Sys2Proof.Machine
end
